-- ==== Sys2Proof/Word.lean ====
section
/-! DEFINITION. The word types of the block: one abbreviation for each width the spec gives a port or a word. -/

namespace Sys2Proof

/-- Eight bits, for a host that moves words as bytes (20_memory.md R21). -/
abbrev Byte := BitVec 8

/-- The sign field of either format (00_scope.md R4). -/
abbrev Sign := BitVec 1

/-- The exponent field of the 32-bit format: expWidth 8 (00_scope.md R4). -/
abbrev Exp32 := BitVec 8

/-- The mantissa field of the 32-bit format: mantWidth 23 (00_scope.md R4). -/
abbrev Mant32 := BitVec 23

/-- A packed 32-bit pattern (30_encoding.md R31). -/
abbrev Word32 := BitVec 32

/-- The exponent field of the 16-bit format: expWidth 5 (00_scope.md R4). -/
abbrev Exp16 := BitVec 5

/-- The mantissa field of the 16-bit format: mantWidth 10 (00_scope.md R4). -/
abbrev Mant16 := BitVec 10

/-- A packed 16-bit pattern (30_encoding.md R33). -/
abbrev Word16 := BitVec 16

/-- The request word REQ (30_encoding.md R27). -/
abbrev ReqWord := BitVec 67

/-- The response word RSP (30_encoding.md R35). -/
abbrev RspWord := BitVec 72

end Sys2Proof
end

