-- ==== Sys2Proof/Config.lean ====
section
/-! DEFINITION. The parameters the spec leaves open (00_scope.md R6). Both belong to the host; no output bit of the
block depends on either. They have no body here, so that nothing can be proved about their values. -/

namespace Sys2Proof

/-- HEX_UPPERCASE (00_scope.md R6, decision D22): whether the hexadecimal rendering writes digits 10 to 15 as A to F.
Log entry 12. -/
opaque Config.hexUppercase : Bool

/-- HOST_NARROW_F64 (00_scope.md R6, decision D10): how a host that holds a 64-bit float makes the 32-bit pattern it
drives on port `v`; `none` where that function fails. Log entry 11. -/
opaque Config.hostNarrowF64 : BitVec 64 → Option Word32

end Sys2Proof
end

