-- ==== Sys2Proof/Syntax.lean ====
section
/-! DEFINITION. The operations of the block (one constructor for each row of the opcode table), and the calls of the
document's functions as a host writes them. -/

namespace Sys2Proof

/-- The five rows of the opcode table (30_encoding.md R28, with CLASSIFY under its two assembler mnemonics). An
operation carries exactly the ports it reads; the ports it ignores have no effect on its response
(30_encoding.md R29) and are not part of it. -/
inductive Instr where
  /-- ENC32: decompose a 32-bit pattern (40_field_codec_32bit.md R42). -/
  | enc32 (v : Word32)
  /-- DEC32: pack a field triple (40_field_codec_32bit.md R44). -/
  | dec32 (s : Sign) (e : Exp32) (m : Mant32)
  /-- ENC16: narrow a 32-bit pattern (42_narrowing_codec_16bit.md R59). -/
  | enc16 (v : Word32)
  /-- CLASSIFY.32: CLASSIFY with `fmt = 0` (41_classifier.md R55). -/
  | classify32 (e : Exp32) (m : Mant32)
  /-- CLASSIFY.16: CLASSIFY with `fmt = 1` (41_classifier.md R55, R56). The operands have the widths of the ports. -/
  | classify16 (e : Exp32) (m : Mant32)
  deriving DecidableEq, Repr

/-- A call of one of the document's functions over unbounded naturals, as a host or an assembler line states it
(30_encoding.md R40, R41; 40_field_codec_32bit.md R46; 60_exceptions.md R82). -/
inductive Call where
  /-- `encode32 v`, `encode v`, `ENC32 v`. -/
  | encode32 (v : Nat)
  /-- `decode32 s, e, m`, `decode s, e, m`, `DEC32 s, e, m`. -/
  | decode32 (sign exponent mantissa : Nat)
  /-- `encode16 v`, `encodeFromFloat v`, `ENC16 v`. -/
  | encode16 (v : Nat)
  /-- `classify e, m, w`; `CLASSIFY.32 e, m` is the width 8 and `CLASSIFY.16 e, m` the width 5. -/
  | classify (exponent mantissa expWidth : Nat)
  /-- The pseudo-operation `ENC16F s, e, m` (30_encoding.md R41). -/
  | enc16F (sign exponent mantissa : Nat)
  deriving DecidableEq, Repr

end Sys2Proof
end

