-- ==== Sys2Proof/WellFormed.lean ====
section
/-! DEFINITION. What is well formed. Every operation of the block is accepted whatever its operands
(30_encoding.md R39): `Instr.wellFormed` is the narrower question whether the operands lie in the operation's declared
domain, which only CLASSIFY.16 can miss (41_classifier.md R56). A host's call is checked against the ports and against
the function's domain. -/

namespace Sys2Proof

/-- The declared domain of an operation at the ports (60_exceptions.md R82): the FieldTriple invariant of the format
(00_scope.md R9). The ports are exactly as wide as the 32-bit format's fields, so CLASSIFY.16 alone has a check. -/
def Instr.wellFormed : Instr → Bool
  | .enc32 _ => true
  | .dec32 _ _ _ => true
  | .enc16 _ => true
  | .classify32 _ _ => true
  | .classify16 e m => decide (e.toNat ≤ 31) && decide (m.toNat ≤ 0x3FF)

/-- Every operand fits the port it is driven on (30_encoding.md R40: an operand outside the range of its port cannot be
assembled). -/
def Call.fitsPorts : Call → Bool
  | .encode32 v => decide (v ≤ 0xFFFFFFFF)
  | .decode32 sign exponent mantissa => decide (sign ≤ 1) && decide (exponent ≤ 255) && decide (mantissa ≤ 0x7FFFFF)
  | .encode16 v => decide (v ≤ 0xFFFFFFFF)
  | .classify exponent mantissa _ => decide (exponent ≤ 255) && decide (mantissa ≤ 0x7FFFFF)
  | .enc16F sign exponent mantissa => decide (sign ≤ 1) && decide (exponent ≤ 255) && decide (mantissa ≤ 0x7FFFFF)

/-- The exponent width is one the hardware has (00_scope.md R3, 30_encoding.md R41). -/
def Call.widthSupported : Call → Bool
  | .classify _ _ expWidth => decide (expWidth = 8) || decide (expWidth = 5)
  | .encode32 _ => true
  | .decode32 _ _ _ => true
  | .encode16 _ => true
  | .enc16F _ _ _ => true

/-- The operands lie in the declared domain of the function called (60_exceptions.md R82, last column). -/
def Call.inDomain : Call → Bool
  | .classify exponent mantissa 5 => decide (exponent ≤ 31) && decide (mantissa ≤ 0x3FF)
  | .classify exponent mantissa expWidth => Call.fitsPorts (.classify exponent mantissa expWidth)
  | .encode32 v => Call.fitsPorts (.encode32 v)
  | .decode32 sign exponent mantissa => Call.fitsPorts (.decode32 sign exponent mantissa)
  | .encode16 v => Call.fitsPorts (.encode16 v)
  | .enc16F sign exponent mantissa => Call.fitsPorts (.enc16F sign exponent mantissa)

/-- A call that the host issues and that answers a result: a supported width and operands in the domain. -/
def Call.wellFormed (c : Call) : Bool := c.widthSupported && c.inDomain

end Sys2Proof
end

