-- ==== Sys2Proof/Decode.lean ====
section
/-! DEFINITION. The request word REQ and its bytes: fields, decoder, and after it the encoder (30_encoding.md R27 to
R30, R39, R40; 20_memory.md R21). -/

namespace Sys2Proof

/-! ### The fields of REQ (30_encoding.md R27) -/

/-- REQ[66:65], the operation code. -/
def reqOp (w : ReqWord) : BitVec 2 := w.extractLsb' 65 2

/-- REQ[64], the format selector. -/
def reqFmt (w : ReqWord) : BitVec 1 := w.extractLsb' 64 1

/-- REQ[63], the sign operand. -/
def reqS (w : ReqWord) : Sign := w.extractLsb' 63 1

/-- REQ[62:55], the exponent operand. -/
def reqE (w : ReqWord) : Exp32 := w.extractLsb' 55 8

/-- REQ[54:32], the mantissa operand. -/
def reqM (w : ReqWord) : Mant32 := w.extractLsb' 32 23

/-- REQ[31:0], the value operand. -/
def reqV (w : ReqWord) : Word32 := w.extractLsb' 0 32

/-! ### Bytes, most significant first (20_memory.md R21, decision D17) -/

/-- The `k` bytes of a number below 2^(8k), the most significant first. -/
def bytesOfNat : Nat → Nat → List Byte
  | 0, _ => []
  | k + 1, n => BitVec.ofNat 8 (n >>> (8 * k)) :: bytesOfNat k n

/-- The number whose bytes these are, the most significant first. -/
def natOfBytes (bs : List Byte) : Nat := bs.foldl (fun acc b => acc * 256 + b.toNat) 0

/-- How many bytes carry a request word. DESIGN CHOICE (log 7): 67 bits travel in nine bytes, the five bits above
REQ[66] zero. -/
def reqByteCount : Nat := 9

/-! ### The decoder -/

/-- Why a sequence of bytes is not a request word. No request WORD is ever refused (30_encoding.md R39). -/
inductive DecodeError where
  /-- Fewer than nine bytes are there. -/
  | tooFewBytes
  /-- A bit above REQ[66] is set, so the nine bytes carry no 67-bit word (log 7). -/
  | paddingNotZero
  deriving DecidableEq, Repr

/-- The operation a request word asks for: total, all four codes are assigned (30_encoding.md R28, R39). -/
def decode (w : ReqWord) : Instr :=
  if reqOp w = 0b00#2 then .enc32 (reqV w)
  else if reqOp w = 0b01#2 then .dec32 (reqS w) (reqE w) (reqM w)
  else if reqOp w = 0b10#2 then .enc16 (reqV w)
  else if reqFmt w = 0#1 then .classify32 (reqE w) (reqM w)
  else .classify16 (reqE w) (reqM w)

/-- The operation in the first nine bytes, and the bytes after them. Total on any bytes. -/
def decodeBytes (bs : List Byte) : Except DecodeError (Instr × List Byte) :=
  if bs.length < reqByteCount then .error .tooFewBytes
  else if natOfBytes (bs.take reqByteCount) < 2 ^ 67 then
    .ok (decode (BitVec.ofNat 67 (natOfBytes (bs.take reqByteCount))), bs.drop reqByteCount)
  else .error .paddingNotZero

/-! ### The encoder -/

/-- The request word with the given fields (30_encoding.md R27). -/
def reqWord (op : BitVec 2) (fmt : BitVec 1) (s : Sign) (e : Exp32) (m : Mant32) (v : Word32) : ReqWord :=
  op ++ fmt ++ s ++ e ++ m ++ v

/-- The request word of an operation; every ignored field is 0 (30_encoding.md R28, R30, R40). -/
def encode : Instr → ReqWord
  | .enc32 v => reqWord 0b00#2 0#1 0#1 0#8 0#23 v
  | .dec32 s e m => reqWord 0b01#2 0#1 s e m 0#32
  | .enc16 v => reqWord 0b10#2 0#1 0#1 0#8 0#23 v
  | .classify32 e m => reqWord 0b11#2 0#1 0#1 e m 0#32
  | .classify16 e m => reqWord 0b11#2 1#1 0#1 e m 0#32

/-- The nine bytes of a request word. -/
def reqBytes (w : ReqWord) : List Byte := bytesOfNat reqByteCount w.toNat

/-- The nine bytes of an operation's request word. -/
def encodeBytes (i : Instr) : List Byte := reqBytes (encode i)

/-- What the decoder reads from an instruction of `nbits` bits whose bits are `w`, numbered as the opcode table numbers
them: bit 0 is REQ[0]. `w` carries no bit above the instruction's, so `nbits` adds nothing to it. `none` where the nine
bytes of `w` are no request word (log 7). -/
def decodeTableWord (_nbits w : Nat) : Option Instr :=
  if w < 2 ^ 72 then
    match decodeBytes (bytesOfNat reqByteCount w) with
    | .ok (i, _) => some i
    | .error _ => none
  else none

end Sys2Proof
end

