-- ==== Sys2Proof/Machine/State.lean ====
section
/-! DEFINITION. The ports of the block as plain data. The block keeps nothing from one evaluation to the next
(10_state.md R10); State holds what is on its input ports and the response last read from its output ports. -/

namespace Sys2Proof.Machine

/-- The five labels, in the order 00_scope.md R9 and 41_classifier.md R58 list them. -/
inductive Classification where
  | zero
  | subnormal
  | normal
  | infinite
  | nan
  deriving DecidableEq, Repr

/-- The symbolic result of DEC32 (30_encoding.md R37). -/
inductive Symbolic where
  | finite
  | infinity
  | negInfinity
  | nan
  deriving DecidableEq, Repr

/-- FieldTriple32 (00_scope.md R9): its invariant holds by the fields' widths. -/
structure Triple32 where
  sign : Sign
  exponent : Exp32
  mantissa : Mant32
  deriving DecidableEq, Repr

/-- FieldTriple16 (00_scope.md R9): its invariant holds by the fields' widths. -/
structure Triple16 where
  sign : Sign
  exponent : Exp16
  mantissa : Mant16
  deriving DecidableEq, Repr

/-- The one fault kind (60_exceptions.md R81). -/
inductive Fault where
  /-- A field outside its declared range. At the ports it is the RESPONSE of CLASSIFY.16 (41_classifier.md R56), and the
  machine goes on; as an outcome that stops it is raised only by the host-side functions of Machine/HostSide.lean
  (40_field_codec_32bit.md R46), never by `step`. Safe: a fault makes no claim provable. -/
  | invalidFieldRange
  deriving DecidableEq, Repr

/-- Why something has no meaning. `step` never answers any of these. -/
inductive Refusal where
  /-- Raised by an arm of `exec` without a meaning; there is none. Safe. -/
  | notModelled (mnemonic : String)
  /-- Raised by the host side for `classify e, m, w` with `w` neither 5 nor 8: the hardware has no such width
  (30_encoding.md R41, U5 of 93_implementation_defined.md). Safe. -/
  | unsupportedExpWidth
  /-- Raised by the host side where HOST_NARROW_F64 fails on a 64-bit number: no pattern is driven (00_scope.md R6, U6).
  Safe. -/
  | hostNarrowFailed
  deriving DecidableEq, Repr

/-- One value on each input port (10_state.md R11). -/
structure Request where
  op : BitVec 2
  fmt : BitVec 1
  s : Sign
  e : Exp32
  m : Mant32
  v : Word32
  deriving DecidableEq, Repr

/-- What the output ports carry, as the sum type of 30_encoding.md R35 and decision D28: the fields an operation
writes, one constructor for each operation, and the fault. The seven ports of 10_state.md R12 are views of it
(Machine/Ops.lean), with the zero fill of 30_encoding.md R38. -/
inductive Response where
  | enc32 (triple : Triple32) (cls : Classification) (raw : Word32)
  | dec32 (raw : Word32) (sym : Symbolic)
  | enc16 (triple : Triple16) (cls : Classification) (raw16 : Word16)
  | classify (cls : Classification)
  | fault (f : Fault)
  deriving DecidableEq, Repr

/-- The ports. `out` is what the host read at the end of the last evaluation; no operation reads it (log 1). -/
structure State where
  inp : Request
  out : Response
  deriving DecidableEq, Repr

/-- The ports with every input at 0. The spec leaves the inputs to the host; for inputs of 0 it gives these outputs
(70_reset_and_hazards.md R94). DESIGN CHOICE for the inputs, unsafe: log 2. -/
def State.reset : State where
  inp := { op := 0#2, fmt := 0#1, s := 0#1, e := 0#8, m := 0#23, v := 0#32 }
  out := .enc32 { sign := 0#1, exponent := 0#8, mantissa := 0#23 } .zero 0#32

end Sys2Proof.Machine
end

