-- ==== Sys2Proof/Machine/Operands.lean ====
section
/-! DEFINITION. The formats, their packed words, and the operands an operation cuts from its ports (00_scope.md R4;
30_encoding.md R27, R29 to R34). -/

namespace Sys2Proof.Machine

/-! ### The two formats (00_scope.md R4) -/

/-- The parameters of a format. -/
structure FormatParams where
  expWidth : Nat
  mantWidth : Nat
  bias : Int
  deriving DecidableEq, Repr

/-- FMT32. -/
def fmt32 : FormatParams := { expWidth := 8, mantWidth := 23, bias := 127 }

/-- FMT16. -/
def fmt16 : FormatParams := { expWidth := 5, mantWidth := 10, bias := 15 }

/-- maxExponent = 2^expWidth − 1 (00_scope.md R4, R9). -/
def FormatParams.maxExponent (p : FormatParams) : Nat := 2 ^ p.expWidth - 1

/-- The largest mantissa, 2^mantWidth − 1 (00_scope.md R9). -/
def FormatParams.maxMantissa (p : FormatParams) : Nat := 2 ^ p.mantWidth - 1

/-- The FieldTriple invariant on an exponent and a mantissa (00_scope.md R9). -/
def FormatParams.inRange (p : FormatParams) (exponent mantissa : Nat) : Bool :=
  decide (exponent ≤ p.maxExponent) && decide (mantissa ≤ p.maxMantissa)

/-- The format the selector names (30_encoding.md R30). -/
def formatOf (fmt : BitVec 1) : FormatParams := if fmt = 0#1 then fmt32 else fmt16

/-! ### Packed words -/

/-- `pack32` (30_encoding.md R31): sign at bit 31, exponent at 30..23, mantissa at 22..0. -/
def pack32 (s : Sign) (e : Exp32) (m : Mant32) : Word32 := s ++ e ++ m

/-- `unpack32` (30_encoding.md R32). -/
def unpack32 (w : Word32) : Triple32 where
  sign := w.extractLsb' 31 1
  exponent := w.extractLsb' 23 8
  mantissa := w.extractLsb' 0 23

/-- `pack16` (30_encoding.md R33): sign at bit 15, exponent at 14..10, mantissa at 9..0. PRESUMED by the spec itself
(its general-knowledge passage G1, decision D9): log 10. -/
def pack16 (s : Sign) (e : Exp16) (m : Mant16) : Word16 := s ++ e ++ m

/-- `unpack16` (30_encoding.md R33): a host's check; no operation uses it. -/
def unpack16 (h : Word16) : Triple16 where
  sign := h.extractLsb' 15 1
  exponent := h.extractLsb' 10 5
  mantissa := h.extractLsb' 0 10

/-- rawBits of a 32-bit triple (00_scope.md R9). -/
def Triple32.rawBits (t : Triple32) : Word32 := pack32 t.sign t.exponent t.mantissa

/-- rawBits of a 16-bit triple (00_scope.md R9). -/
def Triple16.rawBits (t : Triple16) : Word16 := pack16 t.sign t.exponent t.mantissa

/-! ### The request on the input ports -/

/-- The request word of the values on the input ports (30_encoding.md R27). -/
def Request.word (q : Request) : ReqWord := reqWord q.op q.fmt q.s q.e q.m q.v

/-- The values a request word puts on the input ports (30_encoding.md R27). -/
def Request.ofWord (w : ReqWord) : Request where
  op := reqOp w
  fmt := reqFmt w
  s := reqS w
  e := reqE w
  m := reqM w
  v := reqV w

/-- The request an assembler makes of an operation: every ignored port 0 (30_encoding.md R40). -/
def Request.ofInstr (i : Instr) : Request := Request.ofWord (encode i)

/-- The host drives the input ports (60_exceptions.md R88). The outputs last read stand until the next evaluation. -/
def State.present (q : Request) (s : State) : State := { s with inp := q }

end Sys2Proof.Machine
end

