-- ==== Sys2Proof/Machine/Flags.lean ====
section
/-! DEFINITION. The classification flags and the symbolic code: how they are computed and what they look like on the
wires (41_classifier.md R53, R58; 30_encoding.md R36, R37). -/

namespace Sys2Proof.Machine

/-- `classify(exponent, mantissa, expWidth)` (41_classifier.md R53), for any exponent width `w ≥ 1`: the exponent's type
carries the domain condition `exponent ≤ maxExponent = 2^w − 1`, and the mantissa is read only through `mantissa = 0`. -/
def classify {w k : Nat} (exponent : BitVec w) (mantissa : BitVec k) : Classification :=
  if exponent.toNat = 0 then
    if mantissa.toNat = 0 then .zero else .subnormal
  else if exponent.toNat < 2 ^ w - 1 then .normal
  else if mantissa.toNat = 0 then .infinite
  else .nan

/-- The one-hot wires of a label (30_encoding.md R36). -/
def Classification.wires : Classification → BitVec 5
  | .zero => 0b00001#5
  | .subnormal => 0b00010#5
  | .normal => 0b00100#5
  | .infinite => 0b01000#5
  | .nan => 0b10000#5

/-- The label a one-hot value stands for; `none` for every other value of the wires (30_encoding.md R36). -/
def Classification.ofWires (b : BitVec 5) : Option Classification :=
  if b = 0b00001#5 then some .zero
  else if b = 0b00010#5 then some .subnormal
  else if b = 0b00100#5 then some .normal
  else if b = 0b01000#5 then some .infinite
  else if b = 0b10000#5 then some .nan
  else none

/-- The symbolic result of a triple (40_field_codec_32bit.md R44, its `out.sym` line). -/
def symbolicOf (s : Sign) (e : Exp32) (m : Mant32) : Symbolic :=
  if e.toNat ≠ fmt32.maxExponent then .finite
  else if m ≠ 0#23 then .nan
  else if s = 0#1 then .infinity
  else .negInfinity

/-- The code on the wires (30_encoding.md R37). -/
def Symbolic.code : Symbolic → BitVec 2
  | .finite => 0b00#2
  | .infinity => 0b01#2
  | .negInfinity => 0b10#2
  | .nan => 0b11#2

end Sys2Proof.Machine
end

