-- ==== Sys2Proof/Machine/Ops.lean ====
section
/-! DEFINITION. The shared operations over the ports: answering a request, the fault response, and the seven output
ports and the response word as views of the response (10_state.md R12; 30_encoding.md R35, R38; 60_exceptions.md R83). -/

namespace Sys2Proof.Machine

/-! ### Answering -/

/-- The block answers: the outputs carry this response and the inputs stay as the host drives them. Every operation ends
here (10_state.md R10, R12). -/
def answer (r : Response) (s : State) : Host.Outcome State Fault Refusal := .next { s with out := r }

/-- Taking the one exception, InvalidFieldRange (60_exceptions.md R83, R87): the response is the fault. Nothing is saved,
no mode changes, no control is transferred, and there is no return operation: the next request is evaluated as if the
fault had not occurred. DEDUCED that this is a next state of the machine and not its end: log 4. -/
def raiseInvalidFieldRange (s : State) : Host.Outcome State Fault Refusal := answer (.fault .invalidFieldRange) s

/-! ### The output ports: what an operation does not write is 0 (30_encoding.md R38) -/

/-- Port `err`. -/
def Response.err : Response → BitVec 1
  | .fault _ => 1#1
  | .enc32 _ _ _ => 0#1
  | .dec32 _ _ => 0#1
  | .enc16 _ _ _ => 0#1
  | .classify _ => 0#1

/-- Port `sym`, written by DEC32 only (30_encoding.md R37). -/
def Response.sym : Response → BitVec 2
  | .dec32 _ sym => sym.code
  | .enc32 _ _ _ => 0#2
  | .enc16 _ _ _ => 0#2
  | .classify _ => 0#2
  | .fault _ => 0#2

/-- Port `cls` (30_encoding.md R36). -/
def Response.cls : Response → BitVec 5
  | .enc32 _ cls _ => cls.wires
  | .enc16 _ cls _ => cls.wires
  | .classify cls => cls.wires
  | .dec32 _ _ => 0#5
  | .fault _ => 0#5

/-- Port `rs`. -/
def Response.rs : Response → BitVec 1
  | .enc32 t _ _ => t.sign
  | .enc16 t _ _ => t.sign
  | .dec32 _ _ => 0#1
  | .classify _ => 0#1
  | .fault _ => 0#1

/-- Port `re`; ENC16 writes its low five bits (42_narrowing_codec_16bit.md R66). -/
def Response.re : Response → BitVec 8
  | .enc32 t _ _ => t.exponent
  | .enc16 t _ _ => t.exponent.setWidth 8
  | .dec32 _ _ => 0#8
  | .classify _ => 0#8
  | .fault _ => 0#8

/-- Port `rm`; ENC16 writes its low ten bits (42_narrowing_codec_16bit.md R66). -/
def Response.rm : Response → BitVec 23
  | .enc32 t _ _ => t.mantissa
  | .enc16 t _ _ => t.mantissa.setWidth 23
  | .dec32 _ _ => 0#23
  | .classify _ => 0#23
  | .fault _ => 0#23

/-- Port `raw`; ENC16 writes its low sixteen bits (42_narrowing_codec_16bit.md R66). -/
def Response.raw : Response → BitVec 32
  | .enc32 _ _ raw => raw
  | .dec32 raw _ => raw
  | .enc16 _ _ raw16 => raw16.setWidth 32
  | .classify _ => 0#32
  | .fault _ => 0#32

/-- The response word RSP = `{err, sym, cls, rs, re, rm, raw}` (30_encoding.md R35). -/
def Response.word (r : Response) : RspWord := r.err ++ r.sym ++ r.cls ++ r.rs ++ r.re ++ r.rm ++ r.raw

/-- Whether a response is a result, that is, not the fault (60_exceptions.md R83). -/
def Response.isResult : Response → Bool
  | .fault _ => false
  | .enc32 _ _ _ => true
  | .dec32 _ _ => true
  | .enc16 _ _ _ => true
  | .classify _ => true

end Sys2Proof.Machine
end

