-- ==== Sys2Proof/Machine/Classifier.lean ====
section
/-! DEFINITION. Unit IEEE754_classifier: CLASSIFY in its two forms (41_classifier.md R55, R56). -/

namespace Sys2Proof.Machine

/-- CLASSIFY.32 (41_classifier.md R55, `fmt = 0`): total. -/
def execClassify32 (e : Exp32) (m : Mant32) (st : State) : Host.Outcome State Fault Refusal :=
  answer (.classify (classify e m)) st

/-- CLASSIFY.16 (41_classifier.md R55, R56, `fmt = 1`): the range check comes before classification
(60_exceptions.md R86) and never masks; inside the range the narrower fields have the same values. -/
def execClassify16 (e : Exp32) (m : Mant32) (st : State) : Host.Outcome State Fault Refusal :=
  if fmt16.inRange e.toNat m.toNat then
    answer (.classify (classify (e.setWidth 5 : Exp16) (m.setWidth 10 : Mant16))) st
  else raiseInvalidFieldRange st

end Sys2Proof.Machine
end

