-- ==== Sys2Proof/Machine/FieldCodec32.lean ====
section
/-! DEFINITION. Unit IEEE754_field_codec_32bit: ENC32 and DEC32 (40_field_codec_32bit.md R42 to R45). -/

namespace Sys2Proof.Machine

/-- ENC32's response (40_field_codec_32bit.md R42): the fields of `v`, their label, and `v` itself. No arithmetic; every
bit is kept (R43). -/
def encode32 (v : Word32) : Response :=
  .enc32 (unpack32 v) (classify (unpack32 v).exponent (unpack32 v).mantissa) v

/-- DEC32's response (40_field_codec_32bit.md R44, R45): the packed word, all bits of a NaN kept, and the symbolic code. -/
def decode32 (s : Sign) (e : Exp32) (m : Mant32) : Response := .dec32 (pack32 s e m) (symbolicOf s e m)

/-- ENC32. -/
def execEnc32 (v : Word32) (st : State) : Host.Outcome State Fault Refusal := answer (encode32 v) st

/-- DEC32. -/
def execDec32 (s : Sign) (e : Exp32) (m : Mant32) (st : State) : Host.Outcome State Fault Refusal :=
  answer (decode32 s e m) st

end Sys2Proof.Machine
end

