-- ==== Sys2Proof/Machine/RoundingUnit.lean ====
section
/-! DEFINITION. Unit fp_rounding_unit: rebias, overflow, underflow and truncation (43_rounding_unit.md R71 to R80). The
exponent arithmetic is on mathematical integers (R71, decision D25), the mantissa arithmetic on bits. -/

namespace Sys2Proof.Machine

/-- MANT_DROP = 23 − 10 (00_scope.md R5). -/
def mantDrop : Nat := fmt32.mantWidth - fmt16.mantWidth

/-- FLUSH_SHIFT (00_scope.md R5). -/
def flushShift : Int := 10

/-- `exp16 = exp32 − 127 + 15` (43_rounding_unit.md R71). -/
def rebias (exp32 : Exp32) : Int := (exp32.toNat : Int) - fmt32.bias + fmt16.bias

/-- `shift = 1 − exp16` (43_rounding_unit.md R73). -/
def underflowShift (exp16 : Int) : Int := 1 - exp16

/-- `fullMantissa = (1 << 23) | mant32` (43_rounding_unit.md R75), 24 bits. -/
def fullMantissa (mant32 : Mant32) : BitVec 24 := 0x800000#24 ||| mant32.setWidth 24

/-- The 16-bit subnormal mantissa: `(fullMantissa >> (23 − 10 + shift)) & 0x3FF`, truncating (43_rounding_unit.md R75). -/
def subnormalMantissa (mant32 : Mant32) (shift : Nat) : Mant16 :=
  ((fullMantissa mant32 >>> (mantDrop + shift)) &&& 0x3FF#24).setWidth 10

/-- The 16-bit normal mantissa: `(mant32 >> 13) & 0x3FF`, truncating (43_rounding_unit.md R77). -/
def normalMantissa (mant32 : Mant32) : Mant16 := ((mant32 >>> mantDrop) &&& 0x3FF#23).setWidth 10

/-- `narrow_normal(exp32, mant32)` (43_rounding_unit.md R80). It is defined for a normal 32-bit value only, which the two
hypotheses say; no branch reads them. -/
def narrowNormal (exp32 : Exp32) (mant32 : Mant32) (_hNotZero : exp32 ≠ 0#8) (_hNotMax : exp32 ≠ 255#8) :
    Exp16 × Mant16 :=
  if rebias exp32 ≤ 0 then
    if flushShift ≤ underflowShift (rebias exp32) then (0#5, 0#10)
    else (0#5, subnormalMantissa mant32 (underflowShift (rebias exp32)).toNat)
  else if 31 ≤ rebias exp32 then (31#5, 0#10)
  else (BitVec.ofInt 5 (rebias exp32), normalMantissa mant32)

end Sys2Proof.Machine
end

