-- ==== Sys2Proof/Machine/Narrowing16.lean ====
section
/-! DEFINITION. Unit IEEE754_narrowing_codec_16bit: ENC16 (42_narrowing_codec_16bit.md R59 to R70). -/

namespace Sys2Proof.Machine

/-- NAN16, the one result of narrowing any NaN (00_scope.md R5, 42_narrowing_codec_16bit.md R60). -/
def nan16 : Triple16 := { sign := 0#1, exponent := 31#5, mantissa := 1#10 }

/-- The chain of cases of 42_narrowing_codec_16bit.md R59, first match wins: NaN (R60), infinite (R61), zero (R63),
32-bit subnormal (R64, with the input's sign by decision D12: log 8), normal (R65, with the input's sign: log 9). -/
def narrow (t : Triple32) : Triple16 :=
  if hMax : t.exponent = 255#8 then
    if t.mantissa ≠ 0#23 then nan16
    else { sign := t.sign, exponent := 31#5, mantissa := 0#10 }
  else if hZero : t.exponent = 0#8 then
    if t.mantissa = 0#23 then { sign := t.sign, exponent := 0#5, mantissa := 0#10 }
    else { sign := t.sign, exponent := 0#5, mantissa := 0#10 }
  else
    { sign := t.sign
      exponent := (narrowNormal t.exponent t.mantissa hZero hMax).1
      mantissa := (narrowNormal t.exponent t.mantissa hZero hMax).2 }

/-- ENC16's response (42_narrowing_codec_16bit.md R59, R66, R68): decompose, narrow, classify the result, pack it. -/
def encode16 (v : Word32) : Response :=
  .enc16 (narrow (unpack32 v)) (classify (narrow (unpack32 v)).exponent (narrow (unpack32 v)).mantissa)
    (narrow (unpack32 v)).rawBits

/-- ENC16. -/
def execEnc16 (v : Word32) (st : State) : Host.Outcome State Fault Refusal := answer (encode16 v) st

end Sys2Proof.Machine
end

