-- ==== Sys2Proof/Machine/Dispatch.lean ====
section
/-! DEFINITION. One arm for each row of the opcode table. -/

namespace Sys2Proof.Machine

/-- The meaning of an operation. -/
def exec (i : Instr) (st : State) : Host.Outcome State Fault Refusal :=
  match i with
  | .enc32 v => Sys2Proof.Machine.execEnc32 v st
  | .dec32 s e m => Sys2Proof.Machine.execDec32 s e m st
  | .enc16 v => Sys2Proof.Machine.execEnc16 v st
  | .classify32 e m => Sys2Proof.Machine.execClassify32 e m st
  | .classify16 e m => Sys2Proof.Machine.execClassify16 e m st

end Sys2Proof.Machine
end

