-- ==== Sys2Proof/Machine/Step.lean ====
section
/-! DEFINITION. One step: the evaluation of the one complete request on the input ports (10_state.md R10, R14;
70_reset_and_hazards.md R96). -/

namespace Sys2Proof.Machine

/-- The block evaluates the request on its input ports. There is no program counter and no fetch: the operation is the
value on port `op`, sampled with the operands of the same request (20_memory.md R26). -/
def step (st : State) : Host.Outcome State Fault Refusal := exec (decode st.inp.word) st

/-- The state in which the next step runs the instruction whose bits are `w`: the host drives its request word on the
input ports (log 3). A bit above REQ[66] has no wire. -/
def State.withFetchWord (s : State) (_nbits w : Nat) : State :=
  State.present (Request.ofWord (BitVec.ofNat 67 w)) s

end Sys2Proof.Machine
end

