-- ==== Sys2Proof/Machine/Program.lean ====
section
/-! DEFINITION. What a host does with the block over several requests (70_reset_and_hazards.md R99): a finite list of
requests, a later one possibly computed from the earlier responses. The sequence is the host's, not the block's
(10_state.md R14); the block's only part in it is `step`. -/

namespace Sys2Proof.Machine

/-- A host program: each entry makes the next request from the responses so far, oldest first. -/
abbrev Program := List (List Response → Request)

/-- The program that issues fixed requests. -/
def Program.ofRequests (qs : List Request) : Program := qs.map (fun q _ => q)

/-- Issue the requests of a program in order from a state; `past` are the responses so far, oldest first. The end state
of a program is its list of responses (70_reset_and_hazards.md R99). `none` if a step did not answer. -/
def Program.run : Program → List Response → State → Option (List Response)
  | [], past, _ => some past
  | q :: rest, past, st =>
    match step (State.present (q past) st) with
    | .next t => Program.run rest (past ++ [t.out]) t
    | .fault _ => none
    | .refused _ => none

/-- The sticky fault mark a host layer may keep for a whole run (60_exceptions.md R87); the block keeps none. -/
def faultMark (responses : List Response) : Bool := responses.any (fun r => !r.isResult)

end Sys2Proof.Machine
end

