-- ==== Sys2Proof/Machine/HostSide.lean ====
section
/-! DEFINITION. The functions a host puts in front of the ports (60_exceptions.md R82, R88; 40_field_codec_32bit.md R46;
30_encoding.md R41). They are no part of the block: they check naturals wider than the ports, issue the request, and
read the fault. -/

namespace Sys2Proof.Machine

/-- The host assembles an operation's request, drives it and samples the response. -/
def issue (i : Instr) (st : State) : Host.Outcome State Fault Refusal :=
  step (State.present (Request.ofInstr i) st)

/-- The host reads a fault response as the fault (60_exceptions.md R83: no result, no value is read from it). Log 13. -/
def raiseFaultResponse : Host.Outcome State Fault Refusal → Host.Outcome State Fault Refusal
  | .next t => if t.out.isResult then .next t else .fault .invalidFieldRange
  | .fault f => .fault f
  | .refused r => .refused r

/-- `encode32(value)` on a pattern given as a natural (30_encoding.md R40). -/
def encode32Host (v : Nat) (st : State) : Host.Outcome State Fault Refusal :=
  if v > 0xFFFFFFFF then .fault .invalidFieldRange
  else issue (.enc32 (BitVec.ofNat 32 v)) st

/-- `decode32_host(sign, exponent, mantissa)` (40_field_codec_32bit.md R46, decision D14): fail fast, never mask. -/
def decode32Host (sign exponent mantissa : Nat) (st : State) : Host.Outcome State Fault Refusal :=
  if sign > 1 ∨ exponent > 255 ∨ mantissa > 0x7FFFFF then .fault .invalidFieldRange
  else issue (.dec32 (BitVec.ofNat 1 sign) (BitVec.ofNat 8 exponent) (BitVec.ofNat 23 mantissa)) st

/-- `encode16(value)` on a pattern given as a natural (30_encoding.md R40). -/
def encode16Host (v : Nat) (st : State) : Host.Outcome State Fault Refusal :=
  if v > 0xFFFFFFFF then .fault .invalidFieldRange
  else issue (.enc16 (BitVec.ofNat 32 v)) st

/-- `classify(exponent, mantissa, expWidth)` (60_exceptions.md R82; 30_encoding.md R41). A width the hardware does not
have is refused first (DESIGN CHOICE, log 16). With width 5 a field that fits the port but not the format is answered by
the block's own fault. -/
def classifyHost (exponent mantissa expWidth : Nat) (st : State) : Host.Outcome State Fault Refusal :=
  if expWidth ≠ 8 ∧ expWidth ≠ 5 then .refused .unsupportedExpWidth
  else if exponent > 255 ∨ mantissa > 0x7FFFFF then .fault .invalidFieldRange
  else if expWidth = 8 then issue (.classify32 (BitVec.ofNat 8 exponent) (BitVec.ofNat 23 mantissa)) st
  else raiseFaultResponse (issue (.classify16 (BitVec.ofNat 8 exponent) (BitVec.ofNat 23 mantissa)) st)

/-- `ENC16F s, e, m` (30_encoding.md R41): DEC32, then ENC16 of the `raw` output of the first. -/
def enc16FHost (sign exponent mantissa : Nat) (st : State) : Host.Outcome State Fault Refusal :=
  match decode32Host sign exponent mantissa st with
  | .next t => issue (.enc16 t.out.raw) t
  | .fault f => .fault f
  | .refused r => .refused r

/-- A host's call of any of the document's functions. -/
def callHost (c : Call) (st : State) : Host.Outcome State Fault Refusal :=
  match c with
  | .encode32 v => encode32Host v st
  | .decode32 sign exponent mantissa => decode32Host sign exponent mantissa st
  | .encode16 v => encode16Host v st
  | .classify exponent mantissa expWidth => classifyHost exponent mantissa expWidth st
  | .enc16F sign exponent mantissa => enc16FHost sign exponent mantissa st

/-- `encode32` on a 64-bit number: the host narrows it by its own open function before it drives `v`
(60_exceptions.md R88 duty 3; 00_scope.md R6). Log 11. -/
def encode32F64Host (x : BitVec 64) (st : State) : Host.Outcome State Fault Refusal :=
  match Config.hostNarrowF64 x with
  | some v => issue (.enc32 v) st
  | none => .refused .hostNarrowFailed

/-- `encode16` on a 64-bit number. Log 11. -/
def encode16F64Host (x : BitVec 64) (st : State) : Host.Outcome State Fault Refusal :=
  match Config.hostNarrowF64 x with
  | some v => issue (.enc16 v) st
  | none => .refused .hostNarrowFailed

/-- The requests a call stands for, on operands that fit the ports (30_encoding.md R40, R41). Two for ENC16F, whose
second takes its operand from the first one's response. -/
def programOf : Call → Program
  | .encode32 v => [fun _ => Request.ofInstr (.enc32 (BitVec.ofNat 32 v))]
  | .decode32 sign exponent mantissa =>
    [fun _ => Request.ofInstr (.dec32 (BitVec.ofNat 1 sign) (BitVec.ofNat 8 exponent) (BitVec.ofNat 23 mantissa))]
  | .encode16 v => [fun _ => Request.ofInstr (.enc16 (BitVec.ofNat 32 v))]
  | .classify exponent mantissa expWidth =>
    if expWidth = 8 then
      [fun _ => Request.ofInstr (.classify32 (BitVec.ofNat 8 exponent) (BitVec.ofNat 23 mantissa))]
    else [fun _ => Request.ofInstr (.classify16 (BitVec.ofNat 8 exponent) (BitVec.ofNat 23 mantissa))]
  | .enc16F sign exponent mantissa =>
    [fun _ => Request.ofInstr (.dec32 (BitVec.ofNat 1 sign) (BitVec.ofNat 8 exponent) (BitVec.ofNat 23 mantissa)),
     fun past => Request.ofInstr (.enc16 (match past.getLast? with | some r => r.raw | none => 0#32))]

/-- The nine bytes of the response word, most significant first (20_memory.md R21, decision D17). -/
def rspBytes (r : Response) : List Byte := bytesOfNat 9 r.word.toNat

/-- The four bytes of a 32-bit word, most significant first (20_memory.md R21). -/
def word32Bytes (w : Word32) : List Byte := bytesOfNat 4 w.toNat

/-- The two bytes of a 16-bit word, most significant first (20_memory.md R21). -/
def word16Bytes (h : Word16) : List Byte := bytesOfNat 2 h.toNat

end Sys2Proof.Machine
end

