-- ==== Sys2Proof/Machine/Assembler.lean ====
section
/-! DEFINITION. The assembler line (30_encoding.md R40, R41): one line of text to the call it writes, and to request
words. What the spec's syntax leaves to a reader (blanks, letter case of names and prefixes) is a DESIGN CHOICE, log 14. -/

namespace Sys2Proof.Machine

/-- Why a line is not assembled. -/
inductive AsmError where
  /-- Nothing stands before the comment. -/
  | emptyLine
  /-- The first word is no mnemonic and no alias of 30_encoding.md R40 and R41. -/
  | unknownMnemonic
  /-- Too many or too few operands. -/
  | wrongOperandCount
  /-- An operand is no decimal, `0x` or `0b` integer. -/
  | badNumeral
  /-- `classify` with an expWidth that is neither 5 nor 8 (30_encoding.md R41). -/
  | unsupportedExpWidth
  /-- An operand is outside the range of its port (30_encoding.md R40). -/
  | invalidFieldRange
  deriving DecidableEq, Repr

/-- A blank: space or tab. -/
def isBlank (c : Char) : Bool := c == ' ' || c == '\t'

/-- Text without blanks at either end. -/
def trim (cs : List Char) : List Char := ((cs.dropWhile isBlank).reverse.dropWhile isBlank).reverse

/-- The value of a digit, letters of either case. -/
def digitValue (c : Char) : Option Nat :=
  if '0' ≤ c ∧ c ≤ '9' then some (c.toNat - 48)
  else if 'a' ≤ c ∧ c ≤ 'f' then some (c.toNat - 87)
  else if 'A' ≤ c ∧ c ≤ 'F' then some (c.toNat - 55)
  else none

/-- Digits in a base, continuing from `acc`. -/
def digitsFrom (base : Nat) : Nat → List Char → Option Nat
  | acc, [] => some acc
  | acc, c :: cs =>
    match digitValue c with
    | some d => if d < base then digitsFrom base (acc * base + d) cs else none
    | none => none

/-- A non-empty run of digits. -/
def digits (base : Nat) (cs : List Char) : Option Nat := if cs.isEmpty then none else digitsFrom base 0 cs

/-- An integer in decimal, `0x` hexadecimal or `0b` binary (30_encoding.md R40). -/
def numeral : List Char → Option Nat
  | '0' :: 'x' :: cs => digits 16 cs
  | '0' :: 'b' :: cs => digits 2 cs
  | cs => digits 10 cs

/-- All the operands as naturals, or nothing. -/
def numerals : List (List Char) → Option (List Nat)
  | [] => some []
  | cs :: rest =>
    match numeral (trim cs), numerals rest with
    | some n, some ns => some (n :: ns)
    | some _, none => none
    | none, _ => none

/-- The call of a one-operand name. -/
def oneOperand (f : Nat → Call) : List Nat → Except AsmError Call
  | [a] => .ok (f a)
  | _ => .error .wrongOperandCount

/-- The call of a two-operand name. -/
def twoOperands (f : Nat → Nat → Call) : List Nat → Except AsmError Call
  | [a, b] => .ok (f a b)
  | _ => .error .wrongOperandCount

/-- The call of a three-operand name. -/
def threeOperands (f : Nat → Nat → Nat → Call) : List Nat → Except AsmError Call
  | [a, b, c] => .ok (f a b c)
  | _ => .error .wrongOperandCount

/-- The names of 30_encoding.md R40 and R41 and the calls they stand for. -/
def callOf (name : List Char) (ops : List Nat) : Except AsmError Call :=
  if name = "ENC32".toList ∨ name = "encode".toList ∨ name = "encode32".toList then oneOperand .encode32 ops
  else if name = "DEC32".toList ∨ name = "decode".toList ∨ name = "decode32".toList then threeOperands .decode32 ops
  else if name = "ENC16".toList ∨ name = "encodeFromFloat".toList ∨ name = "encode16".toList then
    oneOperand .encode16 ops
  else if name = "CLASSIFY.32".toList then twoOperands (fun e m => .classify e m 8) ops
  else if name = "CLASSIFY.16".toList then twoOperands (fun e m => .classify e m 5) ops
  else if name = "classify".toList then threeOperands .classify ops
  else if name = "ENC16F".toList then threeOperands .enc16F ops
  else .error .unknownMnemonic

/-- The operand texts: none for an empty rest, else the parts between commas. -/
def operandTexts (rest : List Char) : List (List Char) := if (trim rest).isEmpty then [] else rest.splitOn ','

/-- The call a line writes, checked against the ports. A comment starts with a semicolon (30_encoding.md R40). -/
def assembleLine (line : List Char) : Except AsmError Call :=
  let code := trim (line.takeWhile (fun c => c != ';'))
  if code.isEmpty then .error .emptyLine
  else
    match numerals (operandTexts (code.dropWhile (fun c => !isBlank c))) with
    | none => .error .badNumeral
    | some ops =>
      match callOf (code.takeWhile (fun c => !isBlank c)) ops with
      | .error err => .error err
      | .ok c =>
        if c.widthSupported then
          if c.fitsPorts then .ok c else .error .invalidFieldRange
        else .error .unsupportedExpWidth

/-- The first request word of a line (its only one, except for ENC16F). -/
def firstWord (line : List Char) : Option ReqWord :=
  match assembleLine line with
  | .ok c => (programOf c).head?.map (fun q => (q []).word)
  | .error _ => none

end Sys2Proof.Machine
end

