-- ==== Sys2Proof/Machine/Renderings.lean ====
section
/-! DEFINITION. Views of the outputs that the host forms: the two renderings of `raw` (40_field_codec_32bit.md R47,
R48), the symbolic strings (30_encoding.md R37), and the number a pattern stands for (40_field_codec_32bit.md R51). No
operation of the block uses any of them. -/

namespace Sys2Proof.Machine

/-- BIN32 (40_field_codec_32bit.md R47): 32 characters, the first is bit 31. -/
def bin32 (raw : Word32) : List Char :=
  (List.range 32).map (fun i => if raw.getLsbD (31 - i) then '1' else '0')

/-- A hexadecimal digit; `upper` is the case of digits 10 to 15. -/
def hexDigit (upper : Bool) (d : BitVec 4) : Char :=
  if d.toNat < 10 then Char.ofNat (48 + d.toNat)
  else if upper then Char.ofNat (55 + d.toNat)
  else Char.ofNat (87 + d.toNat)

/-- HEX8 (40_field_codec_32bit.md R48) with the letter case as an argument: eight digits, the most significant first. -/
def hex8 (upper : Bool) (raw : Word32) : List Char :=
  (List.range 8).map (fun i => hexDigit upper (raw.extractLsb' (28 - 4 * i) 4))

/-- HEX8 as the host forms it: the letter case is the open parameter HEX_UPPERCASE (log 12). -/
def hex8Host (raw : Word32) : List Char := hex8 Config.hexUppercase raw

/-- The string of a symbolic result; none for a finite one (30_encoding.md R37). -/
def Symbolic.text : Symbolic → Option String
  | .finite => none
  | .infinity => some "Infinity"
  | .negInfinity => some "-Infinity"
  | .nan => some "NaN"

/-- The string the host picks from the code on port `sym` (30_encoding.md R37). -/
def textOfSym (sym : BitVec 2) : Option String :=
  if sym = 0b01#2 then some "Infinity"
  else if sym = 0b10#2 then some "-Infinity"
  else if sym = 0b11#2 then some "NaN"
  else none

/-- The number a pattern stands for (40_field_codec_32bit.md R51, the spec's general-knowledge passages G2 and G3,
log 15). A finite magnitude is a whole number of units of 2^−149, the smallest 32-bit subnormal. -/
inductive Number where
  | finite (negative : Bool) (units : Nat)
  | infinite (negative : Bool)
  | notANumber
  deriving DecidableEq, Repr

/-- The magnitude of a finite 32-bit pattern in units of 2^−149: `m` for exponent 0, `(2^23 + m) · 2^(e − 1)` above. -/
def units32 (t : Triple32) : Nat :=
  if t.exponent.toNat = 0 then t.mantissa.toNat
  else (2 ^ 23 + t.mantissa.toNat) * 2 ^ (t.exponent.toNat - 1)

/-- The magnitude of a finite 16-bit triple in units of 2^−149: `m · 2^−24 = m · 2^125` units for exponent 0,
`(2^10 + m) · 2^(e − 25) = (2^10 + m) · 2^(e + 124)` units above. -/
def units16 (t : Triple16) : Nat :=
  if t.exponent.toNat = 0 then t.mantissa.toNat * 2 ^ 125
  else (2 ^ 10 + t.mantissa.toNat) * 2 ^ (t.exponent.toNat + 124)

/-- The number of a 32-bit pattern. -/
def number32 (w : Word32) : Number :=
  if (unpack32 w).exponent = 255#8 then
    if (unpack32 w).mantissa = 0#23 then .infinite (decide ((unpack32 w).sign = 1#1)) else .notANumber
  else .finite (decide ((unpack32 w).sign = 1#1)) (units32 (unpack32 w))

/-- The number of a 16-bit triple. -/
def number16 (t : Triple16) : Number :=
  if t.exponent = 31#5 then
    if t.mantissa = 0#10 then .infinite (decide (t.sign = 1#1)) else .notANumber
  else .finite (decide (t.sign = 1#1)) (units16 t)

end Sys2Proof.Machine
end

