-- ==== Sys2Proof/Safety.lean ====
section
/-! DEFINITION. What counts as a safe run, and which responses the block can give. -/

namespace Sys2Proof.Machine

/-- A step is safe when it answers a result and not the fault (60_exceptions.md R83). -/
def SafeStep (st : State) : Prop := ∃ t, step st = .next t ∧ t.out.isResult = true

/-- A host program is safe from a state when it completes and its sticky fault mark stays down
(60_exceptions.md R87). -/
def SafeRun (p : Program) (st : State) : Prop := ∃ rs, p.run [] st = some rs ∧ faultMark rs = false

/-- The 16-bit triples ENC16 can give: with exponent 31 only an infinity or NAN16 (42_narrowing_codec_16bit.md R68),
with exponent 0 never mantissa 1 (43_rounding_unit.md R74). -/
def Triple16.narrowed (t : Triple16) : Bool :=
  (decide (t.exponent ≠ 31#5) || decide (t.mantissa = 0#10) || decide (t = nan16)) &&
    (decide (t.exponent ≠ 0#5) || decide (t.mantissa ≠ 1#10))

/-- What the fields of a response have to do with each other: raw bits are the packed fields (00_scope.md R9), the label
is the classifier's (41_classifier.md R57), the symbolic code is that of the packed word (30_encoding.md R37), and a
16-bit triple is one that narrowing gives. -/
def Response.legal : Response → Bool
  | .enc32 t cls raw => decide (t.rawBits = raw) && decide (cls = Sys2Proof.Machine.classify t.exponent t.mantissa)
  | .dec32 raw sym => decide (sym = symbolicOf (unpack32 raw).sign (unpack32 raw).exponent (unpack32 raw).mantissa)
  | .enc16 t cls raw16 =>
    decide (raw16 = t.rawBits) && decide (cls = Sys2Proof.Machine.classify t.exponent t.mantissa) && t.narrowed
  | .classify _ => true
  | .fault _ => true

/-! ### The spec's terms, for stating claims -/

/-- The conditions of the five labels, over naturals (41_classifier.md R53). -/
def labelCondition (maxExponent exponent mantissa : Nat) : Classification → Prop
  | .zero => exponent = 0 ∧ mantissa = 0
  | .subnormal => exponent = 0 ∧ mantissa ≠ 0
  | .normal => 0 < exponent ∧ exponent < maxExponent
  | .infinite => exponent = maxExponent ∧ mantissa = 0
  | .nan => exponent = maxExponent ∧ mantissa ≠ 0

/-- `w[31]` as a natural (00_scope.md R7). -/
def signField (w : Word32) : Nat := w.toNat / 2 ^ 31

/-- `w[30:23]` as a natural (00_scope.md R7). -/
def exponentField (w : Word32) : Nat := w.toNat / 2 ^ 23 % 256

/-- `w[22:0]` as a natural (00_scope.md R7). -/
def mantissaField (w : Word32) : Nat := w.toNat % 2 ^ 23

/-- The ports `rs`, `re`, `rm` show this triple and `cls` this label. -/
def State.shows (t : State) (sign exponent mantissa : Nat) (c : Classification) : Prop :=
  t.out.rs.toNat = sign ∧ t.out.re.toNat = exponent ∧ t.out.rm.toNat = mantissa ∧ t.out.cls = c.wires

/-- Two requests agree on every port that the first one's operation reads (30_encoding.md R29). -/
def Request.sameRead (q q' : Request) : Prop :=
  q.op = q'.op ∧
    ((q.op = 0b00#2 → q.v = q'.v) ∧
     (q.op = 0b01#2 → q.s = q'.s ∧ q.e = q'.e ∧ q.m = q'.m) ∧
     (q.op = 0b10#2 → q.v = q'.v) ∧
     (q.op = 0b11#2 → q.fmt = q'.fmt ∧ q.e = q'.e ∧ q.m = q'.m))

end Sys2Proof.Machine
end

