-- ==== Sys2Proof/Certificates/Slice0/Obligations.lean ====
section
/-! DEFINITION. The statements for the provers. A docstring names the rule or section of spec/ a statement formalises,
and says where the statement rests on a decision of the spec or a choice of the model. -/

open Sys2Proof Sys2Proof.Machine

/-! ### Requests, decoding and the step -/

/-- The nine bytes of the request on the ports always decode, and a step is `exec` of what they decode to; a request
assembled from an operation runs that operation. 30_encoding.md section 1, 20_memory.md R26. The nine-byte form is the
model's choice (log 7). -/
def Obligations.StepRunsDecodedRequest : Prop :=
  (∀ st : State, ∃ i, decodeBytes (reqBytes st.inp.word) = .ok (i, []) ∧ step st = exec i st) ∧
  (∀ (i : Instr) (rest : List Byte) (st : State),
    decodeBytes (reqBytes st.inp.word ++ rest) = .ok (i, rest) → step st = exec i st) ∧
  (∀ (i : Instr) (st : State),
    step (State.present (Request.ofInstr i) st) = exec i (State.present (Request.ofInstr i) st))

/-- Decoding the word, or the bytes, of any operation with any operands gives that operation back.
30_encoding.md sections 1 and 6; the nine-byte form is the model's choice (log 7). -/
def Obligations.DecodeInvertsEncode : Prop :=
  ∀ (i : Instr) (rest : List Byte), decode (encode i) = i ∧ decodeBytes (encodeBytes i ++ rest) = .ok (i, rest)

/-- A few request words of 30_encoding.md R40 and 95_test_vectors.md, written out, and the operations they stand for. -/
def Obligations.SpecWordsDecode : Prop :=
  decode 0x0000000003F800000#67 = .enc32 0x3F800000#32 ∧
  decode 0x23F80000000000000#67 = .dec32 0#1 127#8 0#23 ∧
  decode 0x4000000003F800000#67 = .enc16 0x3F800000#32 ∧
  decode 0x63F80000000000000#67 = .classify32 127#8 0#23 ∧
  decode 0x70F80000100000000#67 = .classify16 31#8 1#23

/-- Two requests decode to the same operation exactly when they agree on `op` and on the ports that operation reads.
30_encoding.md section 2 (the table of R29, decision D2). -/
def Obligations.DecodeReadsExactlyTheReadPorts : Prop :=
  ∀ q q' : Request, decode q.word = decode q'.word ↔ q.sameRead q'

/-- Requests that agree on the ports the operation reads have one and the same response, from any two states.
30_encoding.md section 2 (R29, decision D2). -/
def Obligations.IgnoredPortsHaveNoEffect : Prop :=
  ∀ q q' : Request, q.sameRead q' → ∃ r : Response, ∀ st st' : State,
    step (State.present q st) = .next { inp := q, out := r } ∧
      step (State.present q' st') = .next { inp := q', out := r }

/-- There is one total function from requests to responses that every step computes, whatever the state held before; the
input ports stay as driven. 10_state.md section 1 (R10, decision D1), 70_reset_and_hazards.md section 4. -/
def Obligations.ResponseIsFunctionOfRequest : Prop :=
  ∃ f : Request → Response, ∀ st : State, step st = .next { inp := st.inp, out := f st.inp }

/-- Presenting the same request again changes nothing. 20_memory.md section 3 (R22). -/
def Obligations.StepIsIdempotent : Prop := ∀ st : State, ∃ t, step st = .next t ∧ step t = .next t

/-- The responses to a list of requests are those of its requests one by one, whatever the start state; so requests in
another order get the same responses in that order. 20_memory.md R24. -/
def Obligations.ResponsesIndependentOfOrder : Prop :=
  (∃ f : Request → Response, ∀ (qs : List Request) (st : State),
    (Program.ofRequests qs).run [] st = some (qs.map f)) ∧
  (∀ qs qs' : List Request, qs.Perm qs' → ∀ st st' : State, ∃ rs rs' : List Response,
    (Program.ofRequests qs).run [] st = some rs ∧ (Program.ofRequests qs').run [] st' = some rs' ∧ rs.Perm rs')

/-- Frame: no operation drives an input port, and every output it does not write is 0, as the table of 30_encoding.md R38
lists them (decision D3). -/
def Obligations.UnwrittenOutputsAreZero : Prop :=
  (∀ (i : Instr) (st t : State), exec i st = .next t → t.inp = st.inp) ∧
  (∀ (v : Word32) (st t : State), exec (.enc32 v) st = .next t → t.out.sym = 0#2 ∧ t.out.err = 0#1) ∧
  (∀ (s : Sign) (e : Exp32) (m : Mant32) (st t : State), exec (.dec32 s e m) st = .next t →
    t.out.rs = 0#1 ∧ t.out.re = 0#8 ∧ t.out.rm = 0#23 ∧ t.out.cls = 0#5 ∧ t.out.err = 0#1) ∧
  (∀ (v : Word32) (st t : State), exec (.enc16 v) st = .next t →
    t.out.re.extractLsb' 5 3 = 0#3 ∧ t.out.rm.extractLsb' 10 13 = 0#13 ∧ t.out.raw.extractLsb' 16 16 = 0#16 ∧
      t.out.sym = 0#2 ∧ t.out.err = 0#1) ∧
  (∀ (e : Exp32) (m : Mant32) (st t : State), exec (.classify32 e m) st = .next t →
    t.out.rs = 0#1 ∧ t.out.re = 0#8 ∧ t.out.rm = 0#23 ∧ t.out.raw = 0#32 ∧ t.out.sym = 0#2 ∧ t.out.err = 0#1) ∧
  (∀ (e : Exp32) (m : Mant32) (st t : State), exec (.classify16 e m) st = .next t →
    t.out.rs = 0#1 ∧ t.out.re = 0#8 ∧ t.out.rm = 0#23 ∧ t.out.raw = 0#32 ∧ t.out.sym = 0#2 ∧
      (e.toNat ≤ 31 ∧ m.toNat ≤ 0x3FF → t.out.err = 0#1) ∧
      (e.toNat > 31 ∨ m.toNat > 0x3FF → t.out.err = 1#1 ∧ t.out.cls = 0#5))

/-! ### Words -/

/-- The layout of REQ: 30_encoding.md R27 (decision D4); nothing is lost either way. -/
def Obligations.RequestWordLayout : Prop :=
  (∀ q : Request, q.word.toNat = q.op.toNat * 2 ^ 65 + q.fmt.toNat * 2 ^ 64 + q.s.toNat * 2 ^ 63 + q.e.toNat * 2 ^ 55 +
      q.m.toNat * 2 ^ 32 + q.v.toNat ∧
    Request.ofWord q.word = q ∧ q.word.extractLsb' 32 32 = pack32 q.s q.e q.m) ∧
  (∀ w : ReqWord, (Request.ofWord w).word = w)

/-- The layout of RSP: 30_encoding.md R35 (decision D4). -/
def Obligations.ResponseWordLayout : Prop :=
  ∀ r : Response, r.word.toNat = r.err.toNat * 2 ^ 71 + r.sym.toNat * 2 ^ 69 + r.cls.toNat * 2 ^ 64 +
    r.rs.toNat * 2 ^ 63 + r.re.toNat * 2 ^ 55 + r.rm.toNat * 2 ^ 32 + r.raw.toNat

/-- The wires lose nothing of the sum-type response: two steps with the same `op` and the same RSP have the same
response. 30_encoding.md section 4 (R35, decision D28). -/
def Obligations.ResponseWordDeterminesResponse : Prop :=
  ∀ st st' t t' : State, step st = .next t → step st' = .next t' → st.inp.op = st'.inp.op →
    t.out.word = t'.out.word → t.out = t'.out

/-- `pack32` puts sign at bit 31, exponent at 30..23 and mantissa at 22..0: the concatenation, the or of shifts, and the
number. 30_encoding.md R31. -/
def Obligations.Pack32Layout : Prop :=
  ∀ (s : Sign) (e : Exp32) (m : Mant32),
    pack32 s e m = ((s.setWidth 32 <<< 31) ||| (e.setWidth 32 <<< 23) ||| m.setWidth 32) ∧
    (pack32 s e m).toNat = s.toNat * 2 ^ 31 + e.toNat * 2 ^ 23 + m.toNat

/-- `unpack32` cuts bits 31, 30..23 and 22..0, and is the inverse of `pack32` both ways. 30_encoding.md R32. -/
def Obligations.Unpack32CutsFieldsAndInvertsPack32 : Prop :=
  (∀ w : Word32, (unpack32 w).sign.toNat = signField w ∧ (unpack32 w).exponent.toNat = exponentField w ∧
    (unpack32 w).mantissa.toNat = mantissaField w ∧
    pack32 (unpack32 w).sign (unpack32 w).exponent (unpack32 w).mantissa = w) ∧
  (∀ (s : Sign) (e : Exp32) (m : Mant32),
    unpack32 (pack32 s e m) = { sign := s, exponent := e, mantissa := m })

/-- `pack16` and `unpack16`. 30_encoding.md R33: the offsets are the spec's general knowledge (G1, decision D9, log 10). -/
def Obligations.Pack16LayoutAndInverse : Prop :=
  (∀ (s : Sign) (e : Exp16) (m : Mant16),
    (pack16 s e m).toNat = s.toNat * 2 ^ 15 + e.toNat * 2 ^ 10 + m.toNat ∧
    unpack16 (pack16 s e m) = { sign := s, exponent := e, mantissa := m }) ∧
  (∀ h : Word16, pack16 (unpack16 h).sign (unpack16 h).exponent (unpack16 h).mantissa = h)

/-- A word moved as bytes goes most significant byte first; the first byte of a 32-bit word is `{sign, exponent[7:1]}`,
the second `{exponent[0], mantissa[22:16]}`. 20_memory.md section 2 (R21, decision D17). -/
def Obligations.BytesAreBigEndian : Prop :=
  (∀ w : Word32, word32Bytes w =
      [w.extractLsb' 24 8, w.extractLsb' 16 8, w.extractLsb' 8 8, w.extractLsb' 0 8] ∧
    natOfBytes (word32Bytes w) = w.toNat) ∧
  (∀ h : Word16, word16Bytes h = [h.extractLsb' 8 8, h.extractLsb' 0 8]) ∧
  (∀ (s : Sign) (e : Exp32) (m : Mant32), (word32Bytes (pack32 s e m)).take 2 =
      [s ++ e.extractLsb' 1 7, e.extractLsb' 0 1 ++ m.extractLsb' 16 7]) ∧
  (∀ r : Response, (rspBytes r).length = 9 ∧ natOfBytes (rspBytes r) = r.word.toNat)

/-! ### The 32-bit codec -/

/-- ENC32 completes for every `v` from every state with the outputs of its pseudocode, and a request with `op = 0b00` is
ENC32 of port `v`. 40_field_codec_32bit.md R42. -/
def Obligations.Enc32Response : Prop :=
  (∀ (v : Word32) (st : State), ∃ t, exec (.enc32 v) st = .next t ∧ t.inp = st.inp ∧
    t.out.rs = v.extractLsb' 31 1 ∧ t.out.re = v.extractLsb' 23 8 ∧ t.out.rm = v.extractLsb' 0 23 ∧
    (∃ c, labelCondition 255 (exponentField v) (mantissaField v) c ∧ t.out.cls = c.wires) ∧
    t.out.raw = v ∧ t.out.raw = pack32 t.out.rs t.out.re t.out.rm ∧ t.out.sym = 0#2 ∧ t.out.err = 0#1) ∧
  (∀ st : State, st.inp.op = 0b00#2 → step st = exec (.enc32 st.inp.v) st)

/-- DEC32 completes for every triple from every state with the outputs of its pseudocode, and a request with `op = 0b01`
is DEC32 of ports `s`, `e`, `m`. 40_field_codec_32bit.md R44. -/
def Obligations.Dec32Response : Prop :=
  (∀ (s : Sign) (e : Exp32) (m : Mant32) (st : State), ∃ t, exec (.dec32 s e m) st = .next t ∧ t.inp = st.inp ∧
    t.out.raw.toNat = s.toNat * 2 ^ 31 + e.toNat * 2 ^ 23 + m.toNat ∧
    t.out.sym = (if e ≠ 255#8 then 0b00#2 else if m ≠ 0#23 then 0b11#2 else if s = 0#1 then 0b01#2 else 0b10#2) ∧
    t.out.rs = 0#1 ∧ t.out.re = 0#8 ∧ t.out.rm = 0#23 ∧ t.out.cls = 0#5 ∧ t.out.err = 0#1) ∧
  (∀ st : State, st.inp.op = 0b01#2 → step st = exec (.dec32 st.inp.s st.inp.e st.inp.m) st)

/-- DEC32 at the maximal exponent, at zero, and at the smallest subnormal; no bit of a NaN is lost.
40_field_codec_32bit.md R45. -/
def Obligations.Dec32ExtremeOperands : Prop :=
  ∀ st : State,
    (∃ t, exec (.dec32 0#1 255#8 0#23) st = .next t ∧ t.out.raw = 0x7F800000#32 ∧ t.out.sym = 0b01#2) ∧
    (∃ t, exec (.dec32 1#1 255#8 0#23) st = .next t ∧ t.out.raw = 0xFF800000#32 ∧ t.out.sym = 0b10#2) ∧
    (∀ (s : Sign) (m : Mant32), m ≠ 0#23 → ∃ t, exec (.dec32 s 255#8 m) st = .next t ∧
      t.out.raw = ((s.setWidth 32 <<< 31) ||| 0x7F800000#32 ||| m.setWidth 32) ∧ t.out.sym = 0b11#2) ∧
    (∃ t, exec (.dec32 0#1 0#8 0#23) st = .next t ∧ t.out.raw = 0x00000000#32 ∧ t.out.sym = 0b00#2) ∧
    (∃ t, exec (.dec32 1#1 0#8 0#23) st = .next t ∧ t.out.raw = 0x80000000#32 ∧ t.out.sym = 0b00#2) ∧
    (∃ t, exec (.dec32 0#1 0#8 1#23) st = .next t ∧ t.out.raw = 0x00000001#32 ∧ t.out.sym = 0b00#2)

/-- Presenting the `raw` output of DEC32 as the value of ENC32 gives the triple back. 40_field_codec_32bit.md R49. -/
def Obligations.EncodeOfDecodeIsTheTriple : Prop :=
  ∀ (s : Sign) (e : Exp32) (m : Mant32) (st : State), ∃ t u,
    exec (.dec32 s e m) st = .next t ∧ exec (.enc32 t.out.raw) t = .next u ∧
      u.out.rs = s ∧ u.out.re = e ∧ u.out.rm = m

/-- Presenting the triple of ENC32 to DEC32 gives the pattern back, for all patterns, NaNs included.
40_field_codec_32bit.md section 4 (R50, decision D23). -/
def Obligations.DecodeOfEncodeIsThePattern : Prop :=
  ∀ (v : Word32) (st : State), ∃ t u,
    exec (.enc32 v) st = .next t ∧ exec (.dec32 t.out.rs t.out.re t.out.rm) t = .next u ∧ u.out.raw = v

/-! ### The classifier -/

/-- The classifier gives a label exactly under that label's condition, for every exponent width at least 1.
41_classifier.md R53. -/
def Obligations.ClassifierConditions : Prop :=
  ∀ (w k : Nat) (e : BitVec w) (m : BitVec k), 1 ≤ w → ∀ c : Classification,
    classify e m = c ↔ labelCondition (2 ^ w - 1) e.toNat m.toNat c

/-- Exactly one label applies in the domain and none above it; on the wires exactly one bit of `cls` is set whenever an
operation writes it. 41_classifier.md R54. -/
def Obligations.ExactlyOneLabel : Prop :=
  (∀ maxExponent e m : Nat, 1 ≤ maxExponent → e ≤ maxExponent → ∃! c, labelCondition maxExponent e m c) ∧
  (∀ maxExponent e m : Nat, 1 ≤ maxExponent → maxExponent < e → ∀ c, ¬ labelCondition maxExponent e m c) ∧
  (∀ st t : State, step st = .next t → st.inp.op ≠ 0b01#2 → t.out.err = 0#1 →
    ∃! i : Fin 5, t.out.cls.getLsbD i.val = true)

/-- `cls` is all 0 exactly for DEC32 and for the fault. 30_encoding.md section 4 (R36, decision D7). -/
def Obligations.ClsZeroOnlyWithoutClassification : Prop :=
  ∀ st t : State, step st = .next t →
    (t.out.cls = 0#5 ↔ st.inp.op = 0b01#2 ∨ t.out.err = 1#1) ∧
    (t.out.cls ≠ 0#5 → ∃ c : Classification, Classification.ofWires t.out.cls = some c ∧ t.out.cls = c.wires)

/-- Both forms of CLASSIFY complete from every state: the label of the pair, every other output 0; CLASSIFY.16 outside
the 16-bit ranges answers the fault. 41_classifier.md R55. -/
def Obligations.ClassifyResponse : Prop :=
  (∀ (e : Exp32) (m : Mant32) (st : State), ∃ c, labelCondition 255 e.toNat m.toNat c ∧
    exec (.classify32 e m) st = .next { inp := st.inp, out := .classify c }) ∧
  (∀ (e : Exp32) (m : Mant32) (st : State), e.toNat ≤ 31 → m.toNat ≤ 0x3FF →
    ∃ c, labelCondition 31 e.toNat m.toNat c ∧
      exec (.classify16 e m) st = .next { inp := st.inp, out := .classify c }) ∧
  (∀ (e : Exp32) (m : Mant32) (st : State), e.toNat > 31 ∨ m.toNat > 0x3FF →
    exec (.classify16 e m) st = .next { inp := st.inp, out := .fault .invalidFieldRange }) ∧
  (∀ c : Classification, (Response.classify c).cls = c.wires ∧ (Response.classify c).rs = 0#1 ∧
    (Response.classify c).re = 0#8 ∧ (Response.classify c).rm = 0#23 ∧ (Response.classify c).raw = 0#32 ∧
    (Response.classify c).sym = 0#2 ∧ (Response.classify c).err = 0#1) ∧
  (∀ st : State, st.inp.op = 0b11#2 → st.inp.fmt = 0#1 → step st = exec (.classify32 st.inp.e st.inp.m) st) ∧
  (∀ st : State, st.inp.op = 0b11#2 → st.inp.fmt = 1#1 → step st = exec (.classify16 st.inp.e st.inp.m) st)

/-! ### The fault -/

/-- The fault on the wires: `err = 1`, every other output 0, RSP as 60_exceptions.md R83 writes it (decision D16). -/
def Obligations.FaultResponseOnTheWires : Prop :=
  (Response.fault .invalidFieldRange).word = 0x800000000000000000#72 ∧
  (∀ r : Response, r.err = 1#1 ↔ r = .fault .invalidFieldRange) ∧
  (∀ r : Response, r.err = 1#1 → r.sym = 0#2 ∧ r.cls = 0#5 ∧ r.rs = 0#1 ∧ r.re = 0#8 ∧ r.rm = 0#23 ∧ r.raw = 0#32)

/-- The fault arises at the ports for CLASSIFY with `fmt = 1` and a field out of the 16-bit range, and nowhere else.
60_exceptions.md sections 1 and 3 (R82, R84, R86, decision D15). -/
def Obligations.OnlyClassify16CanFault : Prop :=
  ∀ st : State, ∃ t, step st = .next t ∧
    (t.out.err = 1#1 ↔
      st.inp.op = 0b11#2 ∧ st.inp.fmt = 1#1 ∧ (st.inp.e.toNat > 31 ∨ st.inp.m.toNat > 0x3FF))

/-- The fault saves nothing and is not sticky: after it, any request is answered as from any other state, and the inputs
that caused it are still on the ports. 60_exceptions.md section 4 (R87, decision D19). -/
def Obligations.FaultLeavesNoTrace : Prop :=
  ∀ st t : State, step st = .next t → t.out = .fault .invalidFieldRange →
    t.inp = st.inp ∧ ∀ (q : Request) (other : State), step (State.present q t) = step (State.present q other)

/-! ### The narrowing codec and the rounding unit -/

/-- ENC16 completes for every `v` from every state, with the result the table over the exponent field gives, the label of
that result, and the packed word. 42_narrowing_codec_16bit.md section 3 (R66, R69). The sign of the rows that the
document gives none for is the spec's decision D12 (logs 8 and 9), the packed word its decision D9 (log 10). -/
def Obligations.Enc16MatchesExponentTable : Prop :=
  (∀ (v : Word32) (st : State), ∃ t, exec (.enc16 v) st = .next t ∧ t.inp = st.inp ∧
    t.out.sym = 0#2 ∧ t.out.err = 0#1 ∧
    t.out.raw.toNat = t.out.rs.toNat * 2 ^ 15 + t.out.re.toNat * 2 ^ 10 + t.out.rm.toNat ∧
    (exponentField v = 255 → mantissaField v ≠ 0 → t.shows 0 31 1 .nan) ∧
    (exponentField v = 255 → mantissaField v = 0 → t.shows (signField v) 31 0 .infinite) ∧
    (exponentField v = 0 → mantissaField v = 0 → t.shows (signField v) 0 0 .zero) ∧
    (exponentField v = 0 → mantissaField v ≠ 0 → t.shows (signField v) 0 0 .zero) ∧
    (1 ≤ exponentField v → exponentField v ≤ 103 → t.shows (signField v) 0 0 .zero) ∧
    (104 ≤ exponentField v → exponentField v ≤ 112 →
      t.shows (signField v) 0 ((0x800000 + mantissaField v) / 2 ^ (126 - exponentField v)) .subnormal) ∧
    (113 ≤ exponentField v → exponentField v ≤ 142 →
      t.shows (signField v) (exponentField v - 112) (mantissaField v / 2 ^ 13) .normal) ∧
    (143 ≤ exponentField v → exponentField v ≤ 254 → t.shows (signField v) 31 0 .infinite)) ∧
  (∀ st : State, st.inp.op = 0b10#2 → step st = exec (.enc16 st.inp.v) st)

/-- Any NaN narrows to sign 0, exponent 31, mantissa 1. 42_narrowing_codec_16bit.md R60. -/
def Obligations.NanNarrowsToOneTriple : Prop :=
  ∀ (v : Word32) (st : State), exponentField v = 255 → mantissaField v ≠ 0 →
    exec (.enc16 v) st =
      .next { inp := st.inp, out := .enc16 { sign := 0#1, exponent := 31#5, mantissa := 1#10 } .nan 0x7C01#16 }

/-- An infinity narrows to the infinity of its sign. 42_narrowing_codec_16bit.md R61. -/
def Obligations.InfinityNarrowsToInfinity : Prop :=
  ∀ (v : Word32) (st : State), exponentField v = 255 → mantissaField v = 0 →
    exec (.enc16 v) st = .next (State.mk st.inp
      (.enc16 { sign := BitVec.ofNat 1 (signField v), exponent := 31#5, mantissa := 0#10 } .infinite
        (if signField v = 1 then 0xFC00#16 else 0x7C00#16)))

/-- A 32-bit zero narrows to the zero of its sign. 42_narrowing_codec_16bit.md R63. -/
def Obligations.ZeroNarrowsToZero : Prop :=
  ∀ (v : Word32) (st : State), exponentField v = 0 → mantissaField v = 0 →
    exec (.enc16 v) st = .next (State.mk st.inp
      (.enc16 { sign := BitVec.ofNat 1 (signField v), exponent := 0#5, mantissa := 0#10 } .zero
        (if signField v = 1 then 0x8000#16 else 0x0000#16)))

/-- A 32-bit subnormal collapses to zero; that it keeps the input's sign is the spec's decision D12 (log 8).
42_narrowing_codec_16bit.md section 2 (R64). -/
def Obligations.SubnormalInputCollapsesToSignedZero : Prop :=
  ∀ (v : Word32) (st : State), exponentField v = 0 → mantissaField v ≠ 0 →
    ∃ t, exec (.enc16 v) st = .next t ∧ t.shows (signField v) 0 0 .zero

/-- The three-way split is by the rebiased exponent, an integer: exactly one case applies, and it fixes the result's
exponent field. 43_rounding_unit.md R72 (with R71). -/
def Obligations.RebiasedExponentSplitsThreeWays : Prop :=
  ∀ (e : Exp32) (m : Mant32) (h0 : e ≠ 0#8) (h255 : e ≠ 255#8),
    rebias e = (e.toNat : Int) - 127 + 15 ∧ -111 ≤ rebias e ∧ rebias e ≤ 142 ∧
    (rebias e ≤ 0 → (narrowNormal e m h0 h255).1 = 0#5) ∧
    (31 ≤ rebias e → narrowNormal e m h0 h255 = (31#5, 0#10)) ∧
    (1 ≤ rebias e → rebias e ≤ 30 → ((narrowNormal e m h0 h255).1.toNat : Int) = rebias e)

/-- A shift of 10 or more gives zero with the input's sign; so a subnormal result with mantissa 1 never occurs.
43_rounding_unit.md R74. -/
def Obligations.ShiftOfTenOrMoreFlushesToZero : Prop :=
  (∀ (v : Word32) (st : State), 1 ≤ exponentField v → 10 ≤ 1 - ((exponentField v : Int) - 112) →
    ∃ t, exec (.enc16 v) st = .next t ∧ t.shows (signField v) 0 0 .zero) ∧
  (∀ (v : Word32) (st t : State), exec (.enc16 v) st = .next t → ¬ (t.out.re = 0#8 ∧ t.out.rm = 1#23)) ∧
  (∀ (v : Word32) (st t : State), exec (.enc16 v) st = .next t → t.out.re = 0#8 → t.out.rm ≠ 0#23 → 2 ≤ t.out.rm.toNat)

/-- A shift of 1 to 9 gives the truncated subnormal mantissa, between 2^(10 − shift) and 2^(11 − shift) − 1.
43_rounding_unit.md R75. -/
def Obligations.SubnormalResultIsTruncatedSignificand : Prop :=
  ∀ (v : Word32) (st : State), 104 ≤ exponentField v → exponentField v ≤ 112 →
    ∃ t, exec (.enc16 v) st = .next t ∧ t.out.re = 0#8 ∧ t.out.cls = Classification.subnormal.wires ∧
      t.out.rm.toNat = (2 ^ 23 + mantissaField v) / 2 ^ (13 + (113 - exponentField v)) ∧
      2 ^ (10 - (113 - exponentField v)) ≤ t.out.rm.toNat ∧
      t.out.rm.toNat ≤ 2 ^ (11 - (113 - exponentField v)) - 1

/-- A rebiased exponent of 31 or more gives infinity with the input's sign and mantissa 0. 43_rounding_unit.md R76. -/
def Obligations.OverflowGivesInfinity : Prop :=
  ∀ (v : Word32) (st : State), 31 ≤ (exponentField v : Int) - 127 + 15 → exponentField v ≤ 254 →
    ∃ t, exec (.enc16 v) st = .next t ∧ t.shows (signField v) 31 0 .infinite

/-- The normal case keeps the rebiased exponent and the top ten mantissa bits, whatever the dropped bits are.
43_rounding_unit.md R77. -/
def Obligations.NormalResultTruncatesMantissa : Prop :=
  ∀ (v : Word32) (st : State), 113 ≤ exponentField v → exponentField v ≤ 142 →
    ∃ t, exec (.enc16 v) st = .next t ∧ (t.out.re.toNat : Int) = (exponentField v : Int) - 127 + 15 ∧
      t.out.rm.toNat = mantissaField v / 2 ^ 13 ∧ t.out.cls = Classification.normal.wires

/-- The result is an infinity exactly for an infinite input or one of magnitude 65536 or more; 65520.0 and the pattern
just below 65536.0 give the largest finite triple. 43_rounding_unit.md section 5 (R78 consequence 2), conflict C1. -/
def Obligations.InfiniteResultOnlyFromExponent143 : Prop :=
  (∀ (v : Word32) (st t : State), exec (.enc16 v) st = .next t →
    (t.out.cls = Classification.infinite.wires ↔
      143 ≤ exponentField v ∧ (exponentField v ≠ 255 ∨ mantissaField v = 0))) ∧
  (∀ st : State, ∃ t, exec (.enc16 0x477FF000#32) st = .next t ∧ t.shows 0 30 0x3FF .normal) ∧
  (∀ st : State, ∃ t, exec (.enc16 0x477FFFFF#32) st = .next t ∧ t.shows 0 30 0x3FF .normal) ∧
  (∀ st : State, ∃ t, exec (.enc16 0x47800000#32) st = .next t ∧ t.shows 0 31 0 .infinite)

/-- A NaN comes out exactly when a NaN goes in, and the only NaN word is 0x7C01. 42_narrowing_codec_16bit.md section 3
(consequence of R68). -/
def Obligations.NanResultExactlyFromNan : Prop :=
  ∀ (v : Word32) (st t : State), exec (.enc16 v) st = .next t →
    (t.out.cls = Classification.nan.wires ↔ exponentField v = 255 ∧ mantissaField v ≠ 0) ∧
    (t.out.re = 31#8 → t.out.rm ≠ 0#23 → t.out.raw = 0x7C01#32)

/-- Feeding the narrowed exponent and mantissa to CLASSIFY.16 gives the same label and never the fault.
42_narrowing_codec_16bit.md section 3 and 41_classifier.md section 3 (R57, R67, R68). -/
def Obligations.NarrowedTripleClassifiesTheSame : Prop :=
  ∀ (v : Word32) (st : State), ∃ t u, exec (.enc16 v) st = .next t ∧
    exec (.classify16 t.out.re t.out.rm) t = .next u ∧ u.out.err = 0#1 ∧ u.out.cls = t.out.cls

/-- For any pattern that is no NaN, flipping bit 31 flips the result's sign and the sign bit of the packed word and
nothing else. 42_narrowing_codec_16bit.md section 3 (R70, decision D12: logs 8 and 9). -/
def Obligations.FlippingSignFlipsOnlyResultSign : Prop :=
  ∀ (v : Word32) (st : State), ¬ (exponentField v = 255 ∧ mantissaField v ≠ 0) →
    ∃ t u, exec (.enc16 v) st = .next t ∧ exec (.enc16 (v ^^^ 0x80000000#32)) st = .next u ∧
      u.out.rs = t.out.rs ^^^ 1#1 ∧ u.out.raw = t.out.raw ^^^ 0x8000#32 ∧
      u.out.re = t.out.re ∧ u.out.rm = t.out.rm ∧ u.out.cls = t.out.cls ∧ u.out.sym = t.out.sym ∧ u.out.err = t.out.err

/-- The magnitude of the result, read as a number, never exceeds the input's unless the result is infinite.
43_rounding_unit.md section 5 (R78 consequence 1); the reading as numbers is the spec's general knowledge (log 15). -/
def Obligations.NarrowingNeverIncreasesMagnitude : Prop :=
  ∀ v : Word32, (unpack32 v).exponent ≠ 255#8 → (narrow (unpack32 v)).exponent ≠ 31#5 →
    units16 (narrow (unpack32 v)) ≤ units32 (unpack32 v)

/-- Where the result is subnormal or normal, it is the largest 16-bit magnitude not above the input's: the input lies
below the next packed word's magnitude. That is rounding toward zero. 43_rounding_unit.md section 5 (R78); the reading
as numbers is the spec's general knowledge (log 15), and so are the bit offsets behind the next packed word (log 10). -/
def Obligations.NarrowingRoundsTowardZero : Prop :=
  ∀ v : Word32, 104 ≤ exponentField v → exponentField v ≤ 142 →
    units16 (narrow (unpack32 v)) ≤ units32 (unpack32 v) ∧
    units32 (unpack32 v) < units16 (unpack16 ((narrow (unpack32 v)).rawBits + 1#16))

/-- Over the non-negative patterns that are no NaN, the packed result is monotonic in the pattern.
43_rounding_unit.md section 5 (R78 consequence 4); the packed word's bit offsets are log 10. -/
def Obligations.NarrowingIsMonotonic : Prop :=
  ∀ (v w : Word32) (st t u : State), v.toNat ≤ w.toNat → w.toNat ≤ 0x7F800000 →
    exec (.enc16 v) st = .next t → exec (.enc16 w) st = .next u → t.out.raw.toNat ≤ u.out.raw.toNat

/-! ### Reset, legality, safety -/

/-- At reset the outputs are those of the request then on the inputs, and a step leaves them so. That the inputs are 0
is the model's choice (log 2); the outputs for it are 70_reset_and_hazards.md R94's. -/
def Obligations.ResetShowsResponseToZeroRequest : Prop :=
  State.reset.inp = Request.ofInstr (.enc32 0#32) ∧ step State.reset = .next State.reset ∧
  State.reset.out.rs = 0#1 ∧ State.reset.out.re = 0#8 ∧ State.reset.out.rm = 0#23 ∧
  State.reset.out.cls = 0b00001#5 ∧ State.reset.out.raw = 0#32 ∧ State.reset.out.sym = 0#2 ∧
  State.reset.out.err = 0#1

/-- Every step, from any state, gives a legal response: raw bits are the packed fields, the label is the classifier's,
the symbolic code is that of the packed word, and a narrowed triple is one narrowing can give. 00_scope.md section 5
(R9), 41_classifier.md section 3 (R57), 42_narrowing_codec_16bit.md section 3 (R68). -/
def Obligations.EveryStepGivesLegalResponse : Prop :=
  ∀ st t : State, step st = .next t → t.out.legal = true

/-- The response at reset is legal. Its value follows from the model's choice of inputs (log 2). -/
def Obligations.ResetResponseIsLegal : Prop := State.reset.out.legal = true

/-- A program of fixed requests completes with the fault mark down exactly when every request's operation has its
operands in its declared domain. 60_exceptions.md sections 1 and 4 (R82, R87). It rests on the machine going on after a
fault, which is deduced (log 4). -/
def Obligations.ProgramSafeExactlyInDomain : Prop :=
  ∀ (qs : List Request) (st : State),
    SafeRun (Program.ofRequests qs) st ↔ ∀ q ∈ qs, (decode q.word).wellFormed = true

/-! ### The host side -/

/-- `decode32_host` on naturals: the fault and no result when a field is out of range, else the DEC32 request of the same
numbers is issued and its response is DEC32's, port by port. 40_field_codec_32bit.md section 2 (R46, decision D14; R44);
that the fault is an outcome of the call is log 13. -/
def Obligations.DecodeHostFailsFast : Prop :=
  (∀ (sign exponent mantissa : Nat) (st : State), sign > 1 ∨ exponent > 255 ∨ mantissa > 0x7FFFFF →
    decode32Host sign exponent mantissa st = .fault .invalidFieldRange) ∧
  (∀ (sign exponent mantissa : Nat) (st : State), sign ≤ 1 → exponent ≤ 255 → mantissa ≤ 0x7FFFFF →
    ∃ t, decode32Host sign exponent mantissa st = .next t ∧
      t.inp = Request.ofInstr
        (.dec32 (BitVec.ofNat 1 sign) (BitVec.ofNat 8 exponent) (BitVec.ofNat 23 mantissa)) ∧
      t.out = decode32 (BitVec.ofNat 1 sign) (BitVec.ofNat 8 exponent) (BitVec.ofNat 23 mantissa) ∧
      t.out.raw.toNat = sign * 2 ^ 31 + exponent * 2 ^ 23 + mantissa ∧
      t.out.sym = (if exponent ≠ 255 then 0b00#2 else if mantissa ≠ 0 then 0b11#2
        else if sign = 0 then 0b01#2 else 0b10#2) ∧
      t.out.rs = 0#1 ∧ t.out.re = 0#8 ∧ t.out.rm = 0#23 ∧ t.out.cls = 0#5 ∧ t.out.err = 0#1)

/-- `classify` on naturals: a width that is neither 5 nor 8 is refused; with a supported width the call faults exactly
outside the format's ranges, else gives the label. 60_exceptions.md section 1 (R82), 30_encoding.md section 6 (R41). That
an unsupported width is refused whatever the operands, also where these are out of range, is the model's choice of order
(log 16), and the fault as an outcome of the call is log 13. -/
def Obligations.ClassifyHostDomain : Prop :=
  ∀ (exponent mantissa expWidth : Nat) (st : State),
    (expWidth ≠ 8 → expWidth ≠ 5 → classifyHost exponent mantissa expWidth st = .refused .unsupportedExpWidth) ∧
    (expWidth = 8 → exponent > 255 ∨ mantissa > 0x7FFFFF →
      classifyHost exponent mantissa expWidth st = .fault .invalidFieldRange) ∧
    (expWidth = 8 → exponent ≤ 255 → mantissa ≤ 0x7FFFFF → ∃ c, labelCondition 255 exponent mantissa c ∧
      ∃ t, classifyHost exponent mantissa expWidth st = .next t ∧ t.out = .classify c) ∧
    (expWidth = 5 → exponent > 31 ∨ mantissa > 0x3FF →
      classifyHost exponent mantissa expWidth st = .fault .invalidFieldRange) ∧
    (expWidth = 5 → exponent ≤ 31 → mantissa ≤ 0x3FF → ∃ c, labelCondition 31 exponent mantissa c ∧
      ∃ t, classifyHost exponent mantissa expWidth st = .next t ∧ t.out = .classify c)

/-- The pseudo-operation ENC16F narrows exactly the triple given: its response is ENC16's on the packed word.
30_encoding.md section 6 (R41, decision D21). -/
def Obligations.Enc16FNarrowsTheGivenTriple : Prop :=
  ∀ (s : Sign) (e : Exp32) (m : Mant32) (st : State), ∃ t u,
    enc16FHost s.toNat e.toNat m.toNat st = .next t ∧ exec (.enc16 (pack32 s e m)) st = .next u ∧ t.out = u.out

/-- On operands that fit the ports and a supported width, a host's call and the requests it stands for end in the same
response. That the call answers a fault response as the fault outcome is the model's choice (log 13).
30_encoding.md section 6 (R40, R41), 60_exceptions.md section 5. -/
def Obligations.CallAgreesWithItsRequests : Prop :=
  ∀ (c : Call) (st : State), c.fitsPorts = true → c.widthSupported = true →
    ∃ rs r, (programOf c).run [] st = some rs ∧ rs.getLast? = some r ∧
      ((∃ t, callHost c st = .next t ∧ t.out = r ∧ r.isResult = true) ∨
       (callHost c st = .fault .invalidFieldRange ∧ r = .fault .invalidFieldRange))

/-- A host's call answers a result exactly when it is well formed: a supported width and operands in the function's
domain. 60_exceptions.md sections 1 and 5 (R82, R88 duty 2), 30_encoding.md section 6 (R40, R41). R82 says that ENC32 and
ENC16 never fault on a pattern; that encode32 and encode16 give no result on a natural above 0xFFFFFFFF, which is no
pattern, is the model's choice (log 13, from R40's operand range and R88 duty 2). -/
def Obligations.CallAnswersExactlyWhenWellFormed : Prop :=
  ∀ (c : Call) (st : State), (∃ t, callHost c st = .next t) ↔ c.wellFormed = true

/-- The four example lines of 30_encoding.md R40 assemble to the words it gives (decision D20). -/
def Obligations.AssemblerExampleLines : Prop :=
  firstWord "ENC32 0x3F800000".toList = some 0x0000000003F800000#67 ∧
  firstWord "DEC32 0, 127, 0".toList = some 0x23F80000000000000#67 ∧
  firstWord "ENC16 0x3F800000".toList = some 0x4000000003F800000#67 ∧
  firstWord "CLASSIFY.16 31, 1".toList = some 0x70F80000100000000#67

/-- What is assembled fits the ports and names a width the hardware has; its first request word is the encoding of the
operation it names on the very operands it writes; every request of a call has every ignored field 0.
30_encoding.md section 6 (R40, R41, decisions D20 and D21); lexical details of a line are log 14. -/
def Obligations.AssembledLinesFitThePorts : Prop :=
  (∀ (line : List Char) (c : Call), assembleLine line = .ok c →
    c.fitsPorts = true ∧ c.widthSupported = true ∧
    match c with
    | .encode32 v => ∃ x : Word32, x.toNat = v ∧ firstWord line = some (encode (.enc32 x))
    | .encode16 v => ∃ x : Word32, x.toNat = v ∧ firstWord line = some (encode (.enc16 x))
    | .decode32 sign exponent mantissa => ∃ (s : Sign) (e : Exp32) (m : Mant32), s.toNat = sign ∧ e.toNat = exponent ∧
        m.toNat = mantissa ∧ firstWord line = some (encode (.dec32 s e m))
    | .enc16F sign exponent mantissa => ∃ (s : Sign) (e : Exp32) (m : Mant32), s.toNat = sign ∧ e.toNat = exponent ∧
        m.toNat = mantissa ∧ firstWord line = some (encode (.dec32 s e m))
    | .classify exponent mantissa expWidth => ∃ (e : Exp32) (m : Mant32), e.toNat = exponent ∧ m.toNat = mantissa ∧
        (expWidth = 8 ∧ firstWord line = some (encode (.classify32 e m)) ∨
         expWidth = 5 ∧ firstWord line = some (encode (.classify16 e m)))) ∧
  (∀ (line : List Char) (w : ReqWord), firstWord line = some w → ∃ i : Instr, w = encode i) ∧
  (∀ (c : Call) (q : List Response → Request), q ∈ programOf c → ∀ past, ∃ i : Instr, q past = Request.ofInstr i) ∧
  (∀ i : Instr, Request.ofInstr i = match i with
    | .enc32 v => { op := 0b00#2, fmt := 0#1, s := 0#1, e := 0#8, m := 0#23, v := v }
    | .dec32 s e m => { op := 0b01#2, fmt := 0#1, s := s, e := e, m := m, v := 0#32 }
    | .enc16 v => { op := 0b10#2, fmt := 0#1, s := 0#1, e := 0#8, m := 0#23, v := v }
    | .classify32 e m => { op := 0b11#2, fmt := 0#1, s := 0#1, e := e, m := m, v := 0#32 }
    | .classify16 e m => { op := 0b11#2, fmt := 1#1, s := 0#1, e := e, m := m, v := 0#32 })

/-- The binary rendering has 32 characters, the i-th being bit 31 − i, and reads back as the word.
40_field_codec_32bit.md section 3 (R47, decision D22). -/
def Obligations.BinaryRenderingReadsBack : Prop :=
  ∀ raw : Word32, (bin32 raw).length = 32 ∧
    (∀ i : Nat, i < 32 → (bin32 raw)[i]? = some (if raw.getLsbD (31 - i) then '1' else '0')) ∧
    digitsFrom 2 0 (bin32 raw) = some raw.toNat

/-- The hexadecimal rendering has eight digits and reads back as the word, in either letter case, so whatever
HEX_UPPERCASE is. 40_field_codec_32bit.md section 3 (R48, decision D22). -/
def Obligations.HexRenderingReadsBack : Prop :=
  ∀ raw : Word32,
    (∀ upper : Bool, (hex8 upper raw).length = 8 ∧ digitsFrom 16 0 (hex8 upper raw) = some raw.toNat) ∧
    (hex8Host raw).length = 8 ∧ digitsFrom 16 0 (hex8Host raw) = some raw.toNat

/-- The string the host picks from the `sym` port of a DEC32 response. 30_encoding.md section 4 (the table of R37,
decision D8). -/
def Obligations.SymbolicStringOfDec32 : Prop :=
  ∀ (s : Sign) (e : Exp32) (m : Mant32) (st : State), ∃ t, exec (.dec32 s e m) st = .next t ∧
    (e ≠ 255#8 → textOfSym t.out.sym = none) ∧
    (e = 255#8 → m = 0#23 → s = 0#1 → textOfSym t.out.sym = some "Infinity") ∧
    (e = 255#8 → m = 0#23 → s = 1#1 → textOfSym t.out.sym = some "-Infinity") ∧
    (e = 255#8 → m ≠ 0#23 → textOfSym t.out.sym = some "NaN")
end

