-- ==== Sys2Proof/Laws/Decode.lean ====
section
/-! SUPPORT. The fields of a concatenated request word, and the bytes of a number. -/

namespace Sys2Proof

/-- A concatenation as a number: the form every layout lemma rests on. -/
theorem append_toNat {j k : Nat} (x : BitVec j) (y : BitVec k) : (x ++ y).toNat = x.toNat * 2 ^ k + y.toNat := by
  rw [BitVec.toNat_append, ← Nat.shiftLeft_add_eq_or_of_lt y.isLt, Nat.shiftLeft_eq]

section Fields

variable (op : BitVec 2) (fmt : BitVec 1) (s : Sign) (e : Exp32) (m : Mant32) (v : Word32)

theorem reqWord_toNat : (reqWord op fmt s e m v).toNat =
    op.toNat * 2 ^ 65 + fmt.toNat * 2 ^ 64 + s.toNat * 2 ^ 63 + e.toNat * 2 ^ 55 + m.toNat * 2 ^ 32 + v.toNat := by
  simp only [reqWord, append_toNat]
  ring

theorem reqOp_reqWord : reqOp (reqWord op fmt s e m v) = op := by
  apply BitVec.eq_of_toNat_eq
  simp only [reqOp, BitVec.extractLsb'_toNat, reqWord_toNat, Nat.shiftRight_eq_div_pow]
  omega

theorem reqFmt_reqWord : reqFmt (reqWord op fmt s e m v) = fmt := by
  apply BitVec.eq_of_toNat_eq
  simp only [reqFmt, BitVec.extractLsb'_toNat, reqWord_toNat, Nat.shiftRight_eq_div_pow]
  omega

theorem reqS_reqWord : reqS (reqWord op fmt s e m v) = s := by
  apply BitVec.eq_of_toNat_eq
  simp only [reqS, BitVec.extractLsb'_toNat, reqWord_toNat, Nat.shiftRight_eq_div_pow]
  omega

theorem reqE_reqWord : reqE (reqWord op fmt s e m v) = e := by
  apply BitVec.eq_of_toNat_eq
  simp only [reqE, BitVec.extractLsb'_toNat, reqWord_toNat, Nat.shiftRight_eq_div_pow]
  omega

theorem reqM_reqWord : reqM (reqWord op fmt s e m v) = m := by
  apply BitVec.eq_of_toNat_eq
  simp only [reqM, BitVec.extractLsb'_toNat, reqWord_toNat, Nat.shiftRight_eq_div_pow]
  omega

theorem reqV_reqWord : reqV (reqWord op fmt s e m v) = v := by
  apply BitVec.eq_of_toNat_eq
  simp only [reqV, BitVec.extractLsb'_toNat, reqWord_toNat, Nat.shiftRight_eq_div_pow]
  omega

end Fields

theorem reqWord_fields (w : ReqWord) : reqWord (reqOp w) (reqFmt w) (reqS w) (reqE w) (reqM w) (reqV w) = w := by
  apply BitVec.eq_of_toNat_eq
  simp only [reqWord_toNat, reqOp, reqFmt, reqS, reqE, reqM, reqV, BitVec.extractLsb'_toNat,
    Nat.shiftRight_eq_div_pow]
  omega

/-! ### Bytes -/

@[simp] theorem bytesOfNat_length (k n : Nat) : (bytesOfNat k n).length = k := by
  induction k with
  | zero => rfl
  | succ k ih => simp [bytesOfNat, ih]

theorem natOfBytes_cons (b : Byte) (bs : List Byte) :
    natOfBytes (b :: bs) = b.toNat * 256 ^ bs.length + natOfBytes bs := by
  have key : ∀ (cs : List Byte) (a : Nat),
      cs.foldl (fun acc c => acc * 256 + c.toNat) a =
        a * 256 ^ cs.length + cs.foldl (fun acc c => acc * 256 + c.toNat) 0 := by
    intro cs
    induction cs with
    | nil => intro a; simp
    | cons c cs ih =>
      intro a
      rw [List.foldl_cons, List.foldl_cons, ih, ih (0 * 256 + c.toNat), List.length_cons]
      ring
  rw [natOfBytes, List.foldl_cons, key, natOfBytes]
  ring

/-- The bytes of a number give the number back, as far as they reach. -/
theorem natOfBytes_bytesOfNat (k n : Nat) : natOfBytes (bytesOfNat k n) = n % 256 ^ k := by
  induction k with
  | zero => simp [bytesOfNat, natOfBytes, Nat.mod_one]
  | succ k ih =>
    rw [bytesOfNat, natOfBytes_cons, bytesOfNat_length, ih, BitVec.toNat_ofNat, Nat.shiftRight_eq_div_pow,
      Nat.pow_mul, show (2 : Nat) ^ 8 = 256 from rfl, Nat.pow_succ 256 k, Nat.mod_mul]
    ring

/-- The request word in nine bytes decodes, whatever follows them. -/
theorem decodeBytes_reqBytes (w : ReqWord) (rest : List Byte) :
    decodeBytes (reqBytes w ++ rest) = .ok (decode w, rest) := by
  have hLen : (reqBytes w).length = reqByteCount := bytesOfNat_length _ _
  have hNat : natOfBytes (reqBytes w) = w.toNat := by
    have := w.isLt
    rw [reqBytes, natOfBytes_bytesOfNat]
    exact Nat.mod_eq_of_lt (by simp only [reqByteCount]; omega)
  have hTake : (reqBytes w ++ rest).take reqByteCount = reqBytes w := by
    rw [← hLen, List.take_left]
  have hDrop : (reqBytes w ++ rest).drop reqByteCount = rest := by
    rw [← hLen, List.drop_left]
  rw [decodeBytes, hTake, hDrop, hNat, if_neg (by rw [List.length_append, hLen]; omega), if_pos w.isLt]
  simp

end Sys2Proof
end

