-- ==== Sys2Proof/Laws/State.lean ====
section
/-! SUPPORT. One lemma for each field and each update of the state. -/

namespace Sys2Proof.Machine

@[simp] theorem present_inp (q : Request) (s : State) : (State.present q s).inp = q := rfl

@[simp] theorem present_out (q : Request) (s : State) : (State.present q s).out = s.out := rfl

@[simp] theorem present_present (q q' : Request) (s : State) :
    State.present q (State.present q' s) = State.present q s := rfl

@[simp] theorem withFetchWord_inp (s : State) (nbits w : Nat) :
    (s.withFetchWord nbits w).inp = Request.ofWord (BitVec.ofNat 67 w) := rfl

@[simp] theorem withFetchWord_out (s : State) (nbits w : Nat) : (s.withFetchWord nbits w).out = s.out := rfl

/-- Everything the shared answer can do: the inputs stay, the response is the one given. -/
theorem answer_eq_next_iff {r : Response} {s t : State} :
    answer r s = .next t ↔ t = { inp := s.inp, out := r } :=
  ⟨fun h => (Host.Outcome.next.inj h).symm, fun h => congrArg Host.Outcome.next h.symm⟩

/-- Taking the exception is an answer, and always a next state. -/
theorem raiseInvalidFieldRange_eq (s : State) :
    raiseInvalidFieldRange s = .next { inp := s.inp, out := .fault .invalidFieldRange } := rfl

end Sys2Proof.Machine
end

