-- ==== Sys2Proof/Laws/Ops.lean ====
section
/-! SUPPORT. What each meaning answers, said once; a step in terms of the ports; the fields of a pattern as numbers. -/

namespace Sys2Proof.Machine

/-! ### The meanings -/

section Meanings

variable (st : State)

theorem exec_enc32 (v : Word32) : exec (.enc32 v) st = .next { inp := st.inp, out := encode32 v } := rfl

theorem exec_dec32 (s : Sign) (e : Exp32) (m : Mant32) :
    exec (.dec32 s e m) st = .next { inp := st.inp, out := decode32 s e m } := rfl

theorem exec_enc16 (v : Word32) : exec (.enc16 v) st = .next { inp := st.inp, out := encode16 v } := rfl

theorem exec_classify32 (e : Exp32) (m : Mant32) :
    exec (.classify32 e m) st = .next { inp := st.inp, out := .classify (classify e m) } := rfl

theorem fmt16_inRange_iff (e m : Nat) : fmt16.inRange e m = true ↔ e ≤ 31 ∧ m ≤ 0x3FF := by
  rw [FormatParams.inRange, Bool.and_eq_true, decide_eq_true_iff, decide_eq_true_iff]
  rfl

theorem exec_classify16_of_inRange {e : Exp32} {m : Mant32} (h : e.toNat ≤ 31 ∧ m.toNat ≤ 0x3FF) :
    exec (.classify16 e m) st = .next (State.mk st.inp
      (.classify (classify (e.setWidth 5 : Exp16) (m.setWidth 10 : Mant16)))) :=
  if_pos ((fmt16_inRange_iff _ _).2 h)

theorem exec_classify16_of_outOfRange {e : Exp32} {m : Mant32} (h : ¬ (e.toNat ≤ 31 ∧ m.toNat ≤ 0x3FF)) :
    exec (.classify16 e m) st = .next { inp := st.inp, out := .fault .invalidFieldRange } :=
  if_neg (fun hr => h ((fmt16_inRange_iff _ _).1 hr))

end Meanings

/-! ### A step -/

theorem decode_word (q : Request) : decode q.word =
    if q.op = 0b00#2 then .enc32 q.v
    else if q.op = 0b01#2 then .dec32 q.s q.e q.m
    else if q.op = 0b10#2 then .enc16 q.v
    else if q.fmt = 0#1 then .classify32 q.e q.m
    else .classify16 q.e q.m := by
  rw [Request.word, decode, reqOp_reqWord, reqFmt_reqWord, reqS_reqWord, reqE_reqWord, reqM_reqWord, reqV_reqWord]

theorem step_present (q : Request) (s : State) : step (State.present q s) = exec (decode q.word) (State.present q s) :=
  rfl

/-! ### The fields of a pattern as numbers -/

@[simp] theorem unpack32_sign_toNat (w : Word32) : (unpack32 w).sign.toNat = signField w := by
  have := w.isLt
  simp only [unpack32, signField, BitVec.extractLsb'_toNat, Nat.shiftRight_eq_div_pow]
  omega

@[simp] theorem unpack32_exponent_toNat (w : Word32) : (unpack32 w).exponent.toNat = exponentField w := by
  simp only [unpack32, exponentField, BitVec.extractLsb'_toNat, Nat.shiftRight_eq_div_pow]

@[simp] theorem unpack32_mantissa_toNat (w : Word32) : (unpack32 w).mantissa.toNat = mantissaField w := by
  simp only [unpack32, mantissaField, BitVec.extractLsb'_toNat, Nat.shiftRight_eq_div_pow, Nat.pow_zero, Nat.div_one]

theorem pack32_toNat (s : Sign) (e : Exp32) (m : Mant32) :
    (pack32 s e m).toNat = s.toNat * 2 ^ 31 + e.toNat * 2 ^ 23 + m.toNat := by
  simp only [pack32, append_toNat]
  ring

theorem pack16_toNat (s : Sign) (e : Exp16) (m : Mant16) :
    (pack16 s e m).toNat = s.toNat * 2 ^ 15 + e.toNat * 2 ^ 10 + m.toNat := by
  simp only [pack16, append_toNat]
  ring

/-! ### The rounding unit as numbers -/

theorem rebias_eq (e : Exp32) : rebias e = (e.toNat : Int) - 112 := by
  simp only [rebias, fmt32, fmt16]
  omega

theorem fullMantissa_toNat (m : Mant32) : (fullMantissa m).toNat = 2 ^ 23 + m.toNat := by
  have := m.isLt
  simp only [fullMantissa, BitVec.toNat_or, BitVec.toNat_setWidth]
  rw [Nat.mod_eq_of_lt (by omega), show (0x800000#24).toNat = 1 <<< 23 from rfl,
    ← Nat.shiftLeft_add_eq_or_of_lt m.isLt, Nat.shiftLeft_eq, Nat.one_mul]

theorem normalMantissa_toNat (m : Mant32) : (normalMantissa m).toNat = m.toNat / 2 ^ 13 := by
  have := m.isLt
  simp only [normalMantissa, mantDrop, fmt32, fmt16, BitVec.toNat_setWidth, BitVec.toNat_and, BitVec.toNat_ushiftRight,
    Nat.shiftRight_eq_div_pow]
  rw [show (0x3FF#23).toNat = 2 ^ 10 - 1 from rfl, Nat.and_two_pow_sub_one_eq_mod]
  omega

/-- On the shifts that reach it, neither the mask nor the width drops a bit. -/
theorem subnormalMantissa_toNat (m : Mant32) (shift : Nat) (h : 1 ≤ shift) :
    (subnormalMantissa m shift).toNat = (2 ^ 23 + m.toNat) / 2 ^ (13 + shift) := by
  have hm := m.isLt
  have hLt : (2 ^ 23 + m.toNat) / 2 ^ (13 + shift) < 2 ^ 10 := by
    rw [Nat.div_lt_iff_lt_mul (by positivity), ← Nat.pow_add]
    calc 2 ^ 23 + m.toNat < 2 ^ 24 := by omega
      _ ≤ 2 ^ (10 + (13 + shift)) := Nat.pow_le_pow_right (by norm_num) (by omega)
  simp only [subnormalMantissa, mantDrop, fmt32, fmt16, BitVec.toNat_setWidth, BitVec.toNat_and,
    BitVec.toNat_ushiftRight, Nat.shiftRight_eq_div_pow, fullMantissa_toNat]
  rw [show (0x3FF#24).toNat = 2 ^ 10 - 1 from rfl, Nat.and_two_pow_sub_one_eq_mod, Nat.mod_mod,
    Nat.mod_eq_of_lt hLt]

end Sys2Proof.Machine
end

