-- ==== Sys2Proof/Laws/PerInstr.lean ====
section
/-! SUPPORT. Per-instruction families over the syntax: the encoding of each operation carries the fixed bits of its row
of the opcode table. -/

namespace Sys2Proof.Laws

/-- The `mask` of an operation's row in spec/opcode_table.json. -/
def tableMask : Instr → ReqWord
  | .enc32 _ => 0x60000000000000000#67
  | .dec32 _ _ _ => 0x60000000000000000#67
  | .enc16 _ => 0x60000000000000000#67
  | .classify32 _ _ => 0x70000000000000000#67
  | .classify16 _ _ => 0x70000000000000000#67

/-- The `match` of an operation's row in spec/opcode_table.json. -/
def tableMatch : Instr → ReqWord
  | .enc32 _ => 0x00000000000000000#67
  | .dec32 _ _ _ => 0x20000000000000000#67
  | .enc16 _ => 0x40000000000000000#67
  | .classify32 _ _ => 0x60000000000000000#67
  | .classify16 _ _ => 0x70000000000000000#67

/-- The encoding matches the table row. -/
def TableRow.Statement (i : Instr) : Prop := encode i &&& tableMask i = tableMatch i
section Masks

variable (op : BitVec 2) (fmt : BitVec 1) (s : Sign) (e : Exp32) (m : Mant32) (v : Word32)

/-- A request word masked to its operation code. -/
theorem reqWord_and_op : reqWord op fmt s e m v &&& 0x60000000000000000#67 = reqWord op 0#1 0#1 0#8 0#23 0#32 := by
  have fields : (op ++ fmt ++ s ++ e ++ m ++ v) &&& (BitVec.allOnes 2 ++ 0#1 ++ 0#1 ++ 0#8 ++ 0#23 ++ 0#32) =
      op ++ 0#1 ++ 0#1 ++ 0#8 ++ 0#23 ++ 0#32 := by
    simp only [BitVec.and_append, BitVec.and_zero, BitVec.and_allOnes]
  exact fields

/-- A request word masked to its operation code and format selector. -/
theorem reqWord_and_op_fmt : reqWord op fmt s e m v &&& 0x70000000000000000#67 = reqWord op fmt 0#1 0#8 0#23 0#32 := by
  have fields : (op ++ fmt ++ s ++ e ++ m ++ v) &&&
      (BitVec.allOnes 2 ++ BitVec.allOnes 1 ++ 0#1 ++ 0#8 ++ 0#23 ++ 0#32) = op ++ fmt ++ 0#1 ++ 0#8 ++ 0#23 ++ 0#32 := by
    simp only [BitVec.and_append, BitVec.and_zero, BitVec.and_allOnes]
  exact fields

end Masks

theorem TableRow.enc32 (v : Word32) : TableRow.Statement (.enc32 v) := reqWord_and_op _ _ _ _ _ _

theorem TableRow.dec32 (s : Sign) (e : Exp32) (m : Mant32) : TableRow.Statement (.dec32 s e m) :=
  reqWord_and_op _ _ _ _ _ _

theorem TableRow.enc16 (v : Word32) : TableRow.Statement (.enc16 v) := reqWord_and_op _ _ _ _ _ _

theorem TableRow.classify32 (e : Exp32) (m : Mant32) : TableRow.Statement (.classify32 e m) :=
  reqWord_and_op_fmt _ _ _ _ _ _

theorem TableRow.classify16 (e : Exp32) (m : Mant32) : TableRow.Statement (.classify16 e m) :=
  reqWord_and_op_fmt _ _ _ _ _ _

end Sys2Proof.Laws
end

