-- ==== Sys2Proof/Tests/Slice0.lean ====
section
/-! SUPPORT. Tests: well-formedness, decoding, one step per instruction on vectors of 95_test_vectors.md, and for the
statements with hypotheses a witness that meets them. No expected value comes from the model. -/

namespace Sys2Proof.Tests

open Sys2Proof.Machine

/-! ### Well-formedness: one ill-formed term for each check -/

theorem test_wf_classify16_exponent : (Instr.classify16 32#8 0#23).wellFormed = false := by decide
theorem test_wf_classify16_mantissa : (Instr.classify16 0#8 0x400#23).wellFormed = false := by decide
theorem test_wf_classify16_limit : (Instr.classify16 31#8 0x3FF#23).wellFormed = true := by decide
theorem test_wf_call_value : (Call.encode32 0x100000000).wellFormed = false ∧ (Call.encode16 0x100000000).wellFormed = false := by decide
theorem test_wf_call_sign : (Call.decode32 2 127 0).wellFormed = false ∧ (Call.enc16F 2 127 0).wellFormed = false := by decide
theorem test_wf_call_exponent : (Call.decode32 0 256 0).wellFormed = false ∧ (Call.enc16F 0 256 0).wellFormed = false := by decide
theorem test_wf_call_mantissa : (Call.decode32 0 0 0x800000).wellFormed = false ∧ (Call.enc16F 0 0 0x800000).wellFormed = false := by decide
theorem test_wf_call_classify8 : (Call.classify 256 0 8).wellFormed = false ∧ (Call.classify 0 0x800000 8).wellFormed = false := by decide
theorem test_wf_call_classify5 : (Call.classify 32 0 5).wellFormed = false ∧ (Call.classify 0 0x400 5).wellFormed = false := by decide
theorem test_wf_call_width : (Call.classify 0 0 11).wellFormed = false := by decide

/-! ### Decoding: words written out bit by bit from the encoding strings of opcode_table.json, op fmt s e m v -/

/-- 00 f s e m v with every ignored bit 1 and v = 0x80000001. -/
theorem test_decode_enc32 : decode
    0b0011111111111111111111111111111111110000000000000000000000000000001#67 = .enc32 0x80000001#32 := by decide

/-- 01 f s e m v with f = 1, s = 1, e = 10000001, m = 100...01, v all ones. -/
theorem test_decode_dec32 : decode
    0b0111100000011000000000000000000000111111111111111111111111111111111#67 = .dec32 1#1 0x81#8 0x400001#23 := by decide

/-- 10 f s e m v with every ignored bit 1 and v = 0x3F800000. -/
theorem test_decode_enc16 : decode
    0b1011111111111111111111111111111111100111111100000000000000000000000#67 = .enc16 0x3F800000#32 := by decide

/-- 110 s e m v with s = 1, e = 11111111, m = 0, v all ones. -/
theorem test_decode_classify32 : decode
    0b1101111111110000000000000000000000011111111111111111111111111111111#67 = .classify32 255#8 0#23 := by decide

/-- 111 s e m v with s = 1, e = 00011111, m = 1, v all ones. -/
theorem test_decode_classify16 : decode
    0b1111000111110000000000000000000000111111111111111111111111111111111#67 = .classify16 31#8 1#23 := by decide

/-- REQ of `CLASSIFY.16 31, 1` as nine bytes, most significant first. -/
theorem test_decode_bytes : decodeBytes [0x07#8, 0x0F#8, 0x80#8, 0x00#8, 0x01#8, 0#8, 0#8, 0#8, 0#8] =
    .ok (.classify16 31#8 1#23, []) := by decide

theorem test_decode_bytes_padding : decodeBytes [0x08#8, 0#8, 0#8, 0#8, 0#8, 0#8, 0#8, 0#8, 0#8] = .error .paddingNotZero := by decide
theorem test_decode_bytes_few : decodeBytes [0x07#8, 0x0F#8] = .error .tooFewBytes := by decide
theorem test_table_word : decodeTableWord 72 0x23F80000000000000 = some (.dec32 0#1 127#8 0#23) := by decide

/-! ### One step per instruction: request and response words of 95_test_vectors.md -/

/-- The response word after one step on a request word, from reset. -/
def rspOf (w : ReqWord) : Option RspWord :=
  match step (State.present (Request.ofWord w) State.reset) with
  | .next t => some t.out.word
  | .fault _ => none
  | .refused _ => none

/-- Program P1 step 1: a negative NaN keeps its payload. -/
theorem test_enc32_nan : rspOf 0x000000000FFC12345#67 = some 0x10FFC12345FFC12345#72 := by decide
/-- Section 2.1: ignored ports. -/
theorem test_enc32_ignored : rspOf 0x1D55555553F800000#67 = some 0x043F8000003F800000#72 := by decide
/-- Section 2.2: a negative NaN with payload 1. -/
theorem test_dec32_nan : rspOf 0x2FF80000100000000#67 = some 0x6000000000FF800001#72 := by decide
/-- Section 2.2: negative infinity. -/
theorem test_dec32_neg_infinity : rspOf 0x2FF80000000000000#67 = some 0x4000000000FF800000#72 := by decide
/-- Section 2.3: the largest subnormal, no carry into the exponent, negative. -/
theorem test_enc16_subnormal : rspOf 0x400000000B87FFFFF#67 = some 0x02800003FF000083FF#72 := by decide
/-- S6b and conflict C1: 65520.0 is not infinite. -/
theorem test_enc16_65520 : rspOf 0x400000000477FF000#67 = some 0x040F0003FF00007BFF#72 := by decide
/-- Section 2.4: 31 is an ordinary exponent in the 32-bit format. -/
theorem test_classify32_normal : rspOf 0x60F80000100000000#67 = some 0x040000000000000000#72 := by decide
/-- Section 2.4: ignored ports do not reach the classifier. -/
theorem test_classify32_ignored : rspOf 0x6FF800000DEADBEEF#67 = some 0x080000000000000000#72 := by decide
/-- Section 2.4: the 16-bit NaN. -/
theorem test_classify16_nan : rspOf 0x70F8003FF00000000#67 = some 0x100000000000000000#72 := by decide
/-- Section 2.4: a mantissa out of range faults. -/
theorem test_classify16_fault : rspOf 0x70000040000000000#67 = some 0x800000000000000000#72 := by decide

/-! ### The host side: 95_test_vectors.md sections 2.5 and 2.6, 30_encoding.md R40 and R41 -/

theorem test_bin32 : bin32 0xC0490FDB#32 = "11000000010010010000111111011011".toList := by decide
theorem test_hex8_upper : hex8 true 0xC0490FDB#32 = "C0490FDB".toList := by decide
theorem test_hex8_lower : hex8 false 0x7FC00000#32 = "7fc00000".toList := by decide
theorem test_symbolic_text : Symbolic.text .negInfinity = some "-Infinity" ∧ textOfSym 0b11#2 = some "NaN" := by decide
theorem test_number_one : number32 0x3F800000#32 = .finite false (2 ^ 149) := by decide
theorem test_number_largest16 : number16 { sign := 0#1, exponent := 30#5, mantissa := 0x3FF#10 } = .finite false (65504 * 2 ^ 149) := by decide
theorem test_unpack16 : unpack16 0xFC00#16 = { sign := 1#1, exponent := 31#5, mantissa := 0#10 } := by decide
theorem test_host_sign_two : decode32Host 2 127 0 State.reset = .fault .invalidFieldRange := rfl
theorem test_assemble_alias : assembleLine "classify 31, 0b1, 5 ; the 16-bit NaN".toList = .ok (.classify 31 1 5) := by decide
theorem test_assemble_width : assembleLine "classify 0, 0, 11".toList = .error .unsupportedExpWidth := by decide
theorem test_assemble_range : assembleLine "DEC32 0, 256, 0".toList = .error .invalidFieldRange := by decide
theorem test_assemble_unknown : assembleLine "ENC64 0".toList = .error .unknownMnemonic := by decide
theorem test_assemble_operands : assembleLine "ENC32 1, 2".toList = .error .wrongOperandCount := by decide
theorem test_assemble_numeral : assembleLine "ENC32 0xG".toList = .error .badNumeral := by decide
theorem test_assemble_empty : assembleLine "  ; nothing".toList = .error .emptyLine := by decide

/-! ### Witnesses: each statement's hypotheses are met, clause by clause at boundary values -/

/-- A request with every ignored port driven. -/
def noisyEnc32 : Request := { op := 0#2, fmt := 1#1, s := 1#1, e := 0xAA#8, m := 0x555555#23, v := 0x3F800000#32 }

/-- The request of CLASSIFY.16 on a pair. -/
def classify16Request (e : Exp32) (m : Mant32) : Request := Request.ofInstr (.classify16 e m)

theorem witness_StepRunsDecodedRequest :
    decodeBytes (reqBytes State.reset.inp.word ++ [1#8]) = .ok (.enc32 0#32, [1#8]) := by decide

theorem witness_IgnoredPortsHaveNoEffect :
    noisyEnc32.sameRead (Request.ofInstr (.enc32 0x3F800000#32)) ∧ noisyEnc32 ≠ Request.ofInstr (.enc32 0x3F800000#32) := by
  unfold Request.sameRead
  decide

theorem witness_ResponsesIndependentOfOrder : [noisyEnc32, State.reset.inp].Perm [State.reset.inp, noisyEnc32] := by decide

theorem witness_UnwrittenOutputsAreZero :
    (∃ t, exec (.enc32 0#32) State.reset = .next t) ∧ (∃ t, exec (.dec32 0#1 0#8 0#23) State.reset = .next t) ∧
    (∃ t, exec (.enc16 0#32) State.reset = .next t) ∧ (∃ t, exec (.classify32 0#8 0#23) State.reset = .next t) ∧
    (∃ t, exec (.classify16 31#8 0x3FF#23) State.reset = .next t) ∧ (31#8).toNat ≤ 31 ∧ (0x3FF#23).toNat ≤ 0x3FF ∧
    (∃ t, exec (.classify16 32#8 0#23) State.reset = .next t) ∧ (32#8).toNat > 31 ∧
    (∃ t, exec (.classify16 0#8 0x400#23) State.reset = .next t) ∧ (0x400#23).toNat > 0x3FF :=
  ⟨⟨_, rfl⟩, ⟨_, rfl⟩, ⟨_, rfl⟩, ⟨_, rfl⟩, ⟨_, rfl⟩, by decide, by decide, ⟨_, rfl⟩, by decide, ⟨_, rfl⟩, by decide⟩

theorem witness_ResponseWordDeterminesResponse :
    ∃ t t', step (State.present noisyEnc32 State.reset) = .next t ∧
      step (State.present (Request.ofInstr (.enc32 0x3F800000#32)) State.reset) = .next t' ∧
      noisyEnc32.op = (Request.ofInstr (.enc32 0x3F800000#32)).op ∧ t.out.word = t'.out.word :=
  ⟨_, _, rfl, rfl, by decide, by decide⟩

theorem witness_Enc32Response : State.reset.inp.op = 0b00#2 := rfl

theorem witness_Dec32Response : (Request.ofInstr (.dec32 1#1 255#8 1#23)).op = 0b01#2 := by decide

theorem witness_Dec32ExtremeOperands : (1#23 : Mant32) ≠ 0#23 ∧ (0x7FFFFF#23 : Mant32) ≠ 0#23 := by decide

theorem witness_ExactlyOneLabel :
    (1 ≤ 1 ∧ 1 ≤ 1) ∧ (1 ≤ 1 ∧ 1 < 2) ∧
    ∃ t, step State.reset = .next t ∧ State.reset.inp.op ≠ 0b01#2 ∧ t.out.err = 0#1 :=
  ⟨by decide, by decide, _, rfl, by decide, rfl⟩

theorem witness_ClsZeroOnlyWithoutClassification : ∃ t, step State.reset = .next t ∧ t.out.cls ≠ 0#5 :=
  ⟨_, rfl, by decide⟩

theorem witness_ClassifyResponse :
    (classify16Request 31#8 0x3FF#23).op = 0b11#2 ∧ (classify16Request 31#8 0x3FF#23).fmt = 1#1 ∧
    (Request.ofInstr (.classify32 255#8 0#23)).fmt = 0#1 ∧ (31#8).toNat ≤ 31 ∧ (0x3FF#23).toNat ≤ 0x3FF ∧
    ((32#8).toNat > 31 ∨ (0#23).toNat > 0x3FF) ∧ ((0#8).toNat > 31 ∨ (0x400#23).toNat > 0x3FF) := by decide

theorem witness_FaultLeavesNoTrace :
    ∃ t, step (State.present (classify16Request 32#8 0#23) State.reset) = .next t ∧ t.out = .fault .invalidFieldRange :=
  ⟨_, rfl, by decide⟩

/-- The exponent fields at both ends of every row of the table of 42_narrowing_codec_16bit.md R69. -/
theorem witness_Enc16MatchesExponentTable :
    (exponentField 0x7F800001#32 = 255 ∧ mantissaField 0x7F800001#32 ≠ 0) ∧
    (exponentField 0xFF800000#32 = 255 ∧ mantissaField 0xFF800000#32 = 0) ∧
    (exponentField 0x80000000#32 = 0 ∧ mantissaField 0x80000000#32 = 0) ∧
    (exponentField 0x807FFFFF#32 = 0 ∧ mantissaField 0x807FFFFF#32 ≠ 0) ∧
    (exponentField 0x00800000#32 = 1 ∧ exponentField 0x33FFFFFF#32 = 103) ∧
    (exponentField 0x34000000#32 = 104 ∧ exponentField 0x387FFFFF#32 = 112) ∧
    (exponentField 0x38800000#32 = 113 ∧ exponentField 0x477FFFFF#32 = 142) ∧
    (exponentField 0x47800000#32 = 143 ∧ exponentField 0x7F7FFFFF#32 = 254) := by decide

theorem witness_ResultsOfNarrowing : (∃ t, exec (.enc16 0x34000000#32) State.reset = .next t ∧ t.out.re = 0#8 ∧ t.out.rm ≠ 0#23) ∧
    (∃ t, exec (.enc16 0xFFFFFFFF#32) State.reset = .next t ∧ t.out.re = 31#8 ∧ t.out.rm ≠ 0#23) :=
  ⟨⟨_, rfl, by decide, by decide⟩, ⟨_, rfl, by decide, by decide⟩⟩

theorem witness_RebiasedExponentSplitsThreeWays :
    (1#8 ≠ 0#8 ∧ 1#8 ≠ 255#8 ∧ rebias 1#8 ≤ 0) ∧ (rebias 112#8 ≤ 0) ∧ (1 ≤ rebias 113#8) ∧ (rebias 142#8 ≤ 30) ∧
    (31 ≤ rebias 143#8) ∧ (254#8 ≠ 0#8 ∧ 254#8 ≠ 255#8 ∧ 31 ≤ rebias 254#8) := by decide

theorem witness_ShiftOfTenOrMoreFlushesToZero :
    1 ≤ exponentField 0x33FFFFFF#32 ∧ 10 ≤ 1 - ((exponentField 0x33FFFFFF#32 : Int) - 112) := by decide

theorem witness_OverflowGivesInfinity :
    31 ≤ (exponentField 0x47800000#32 : Int) - 127 + 15 ∧ exponentField 0x47800000#32 ≤ 254 := by decide

theorem witness_FlippingSignFlipsOnlyResultSign :
    ¬ (exponentField 0x7F800000#32 = 255 ∧ mantissaField 0x7F800000#32 ≠ 0) := by decide

theorem witness_NarrowingNeverIncreasesMagnitude :
    (unpack32 0x477FFFFF#32).exponent ≠ 255#8 ∧ (narrow (unpack32 0x477FFFFF#32)).exponent ≠ 31#5 := by decide

theorem witness_NarrowingIsMonotonic :
    (0x33FFFFFF#32).toNat ≤ (0x7F800000#32).toNat ∧ (0x7F800000#32).toNat ≤ 0x7F800000 ∧
    (∃ t, exec (.enc16 0x33FFFFFF#32) State.reset = .next t) ∧ (∃ u, exec (.enc16 0x7F800000#32) State.reset = .next u) :=
  ⟨by decide, by decide, ⟨_, rfl⟩, ⟨_, rfl⟩⟩

theorem witness_EveryStepGivesLegalResponse : ∃ t, step State.reset = .next t := ⟨_, rfl⟩

theorem witness_HostRanges :
    (2 > 1 ∨ 0 > 255 ∨ 0 > 0x7FFFFF) ∧ (1 ≤ 1 ∧ 255 ≤ 255 ∧ 0x7FFFFF ≤ 0x7FFFFF) ∧ (11 ≠ 8 ∧ 11 ≠ 5) ∧
    (256 > 255 ∨ 0 > 0x7FFFFF) ∧ (32 > 31 ∨ 0 > 0x3FF) ∧ (31 ≤ 31 ∧ 0x3FF ≤ 0x3FF) := by decide

theorem witness_DecodeHostInRange : (1 ≤ 1 ∧ 255 ≤ 255 ∧ 0 ≤ 0x7FFFFF) ∧ ∃ t, decode32Host 1 255 0 State.reset = .next t ∧ t.out.sym = 0b10#2 :=
  ⟨by decide, _, rfl, rfl⟩

theorem witness_CallAgreesWithItsRequests :
    (Call.classify 255 0x7FFFFF 5).fitsPorts = true ∧ (Call.classify 255 0x7FFFFF 5).widthSupported = true ∧
    (Call.enc16F 1 255 0x7FFFFF).fitsPorts = true ∧ (Call.enc16F 1 255 0x7FFFFF).widthSupported = true := by decide

theorem witness_AssembledLinesFitThePorts :
    assembleLine "ENC16F 0, 142, 0x7FF000".toList = .ok (.enc16F 0 142 0x7FF000) ∧
    assembleLine "encode 4294967295".toList = .ok (.encode32 0xFFFFFFFF) ∧
    assembleLine "encode16 0".toList = .ok (.encode16 0) ∧
    assembleLine "decode 1, 255, 0x7FFFFF".toList = .ok (.decode32 1 255 0x7FFFFF) := by decide

theorem witness_AssembledClassifyLines :
    assembleLine "classify 255, 1, 8".toList = .ok (.classify 255 1 8) ∧
    assembleLine "classify 31, 1, 5".toList = .ok (.classify 31 1 5) := by decide

theorem witness_SymbolicStringOfDec32 : (254#8 : Exp32) ≠ 255#8 ∧ (1#23 : Mant32) ≠ 0#23 := by decide

end Sys2Proof.Tests
end

section
/-! PROOFS. The response as a function of the request alone (10_state.md R10), and the responses to a list of requests
(20_memory.md R24). -/

namespace Sys2Proof.Machine

/-- The response an operation answers, as a function of its operands and of nothing in the state. -/
def responseOf : Instr → Response
  | .enc32 v => encode32 v
  | .dec32 s e m => decode32 s e m
  | .enc16 v => encode16 v
  | .classify32 e m => .classify (classify e m)
  | .classify16 e m =>
    if e.toNat ≤ 31 ∧ m.toNat ≤ 0x3FF then
      .classify (classify (e.setWidth 5 : Exp16) (m.setWidth 10 : Mant16))
    else .fault .invalidFieldRange

/-- The response to a request: that of the operation its word decodes to. -/
def Request.response (q : Request) : Response := responseOf (decode q.word)

/-- Every operation answers, keeps the inputs, and shows the response of its operands. -/
theorem exec_eq_next_responseOf (i : Instr) (st : State) :
    exec i st = .next { inp := st.inp, out := responseOf i } := by
  cases i with
  | enc32 v => exact exec_enc32 st v
  | dec32 s e m => exact exec_dec32 st s e m
  | enc16 v => exact exec_enc16 st v
  | classify32 e m => exact exec_classify32 st e m
  | classify16 e m =>
    by_cases h : e.toNat ≤ 31 ∧ m.toNat ≤ 0x3FF
    · rw [exec_classify16_of_inRange st h, responseOf, if_pos h]
    · rw [exec_classify16_of_outOfRange st h, responseOf, if_neg h]

/-- A step shows the response to the request on the ports, whatever the state held before (10_state.md R10). -/
theorem step_eq_next_response (st : State) : step st = .next { inp := st.inp, out := st.inp.response } :=
  exec_eq_next_responseOf (decode st.inp.word) st

/-- One request of a host program: its response joins those so far, and the run goes on. -/
theorem Program.run_cons (q : List Response → Request) (p : Program) (past : List Response) (st : State) :
    Program.run (q :: p) past st =
      Program.run p (past ++ [(q past).response]) { inp := q past, out := (q past).response } := by
  rw [Program.run, step_eq_next_response, present_inp]

/-- A run of fixed requests appends each one's own response to those so far, from every state. -/
theorem Program.run_ofRequests (qs : List Request) (past : List Response) (st : State) :
    (Program.ofRequests qs).run past st = some (past ++ qs.map Request.response) := by
  induction qs generalizing past st with
  | nil => exact congrArg some (List.append_nil past).symm
  | cons q qs ih =>
    calc (Program.ofRequests (q :: qs)).run past st
      _ = (Program.ofRequests qs).run (past ++ [q.response]) { inp := q, out := q.response } :=
        Program.run_cons (fun _ => q) (Program.ofRequests qs) past st
      _ = some (past ++ [q.response] ++ qs.map Request.response) := ih _ _
      _ = some (past ++ (q :: qs).map Request.response) := by
        rw [List.append_assoc, List.singleton_append, List.map_cons]

/-- Settles O8: a run of fixed requests maps `Request.response` over them, and a map keeps permutations. -/
theorem responsesIndependentOfOrder : Obligations.ResponsesIndependentOfOrder := by
  unfold Obligations.ResponsesIndependentOfOrder
  have run_eq_map (qs : List Request) (st : State) :
      (Program.ofRequests qs).run [] st = some (qs.map Request.response) :=
    Program.run_ofRequests qs [] st
  constructor
  · exact ⟨Request.response, run_eq_map⟩
  · intro qs qs' hperm st st'
    exact ⟨_, _, run_eq_map qs st, run_eq_map qs' st', hperm.map Request.response⟩

end Sys2Proof.Machine
end

section
/-! PROOFS. The packed 32-bit word: its layout (30_encoding.md R31) and the three fields cut back out of it (R32). -/

namespace Sys2Proof.Machine

/-- The concatenation of the fields is the or of each field shifted to its offset (30_encoding.md R31). -/
theorem pack32_eq_or_shifts (s : Sign) (e : Exp32) (m : Mant32) :
    pack32 s e m = ((s.setWidth 32 <<< 31) ||| (e.setWidth 32 <<< 23) ||| m.setWidth 32) :=
  calc pack32 s e m
    _ = (s ++ e ++ m).setWidth 32 := (BitVec.setWidth_eq _).symm
    _ = _ := BitVec.setWidth_append_append_eq_shiftLeft_setWidth_or

/-- Unpacking a packed triple cuts each field back out of the concatenation. -/
@[simp] theorem unpack32_pack32 (s : Sign) (e : Exp32) (m : Mant32) :
    unpack32 (pack32 s e m) = { sign := s, exponent := e, mantissa := m } := by
  have hsign : (pack32 s e m).extractLsb' 31 1 = s := by
    rw [pack32, BitVec.append_assoc]
    exact BitVec.extractLsb'_append_eq_left
  have hexponent : (pack32 s e m).extractLsb' 23 8 = e :=
    (BitVec.extractLsb'_append_eq_of_le (by decide)).trans BitVec.extractLsb'_append_eq_right
  have hmantissa : (pack32 s e m).extractLsb' 0 23 = m := BitVec.extractLsb'_append_eq_right
  rw [unpack32, hsign, hexponent, hmantissa]

/-- The three slices of a pattern are adjacent and cover it, so packing them gives the pattern back. -/
@[simp] theorem pack32_unpack32 (w : Word32) :
    pack32 (unpack32 w).sign (unpack32 w).exponent (unpack32 w).mantissa = w := by
  have hhigh : w.extractLsb' 31 1 ++ w.extractLsb' 23 8 = w.extractLsb' 23 9 :=
    BitVec.extractLsb'_append_extractLsb'_eq_extractLsb' rfl
  calc pack32 (unpack32 w).sign (unpack32 w).exponent (unpack32 w).mantissa
    _ = w.extractLsb' 31 1 ++ w.extractLsb' 23 8 ++ w.extractLsb' 0 23 := rfl
    _ = w.extractLsb' 23 9 ++ w.extractLsb' 0 23 := congrArg (· ++ w.extractLsb' 0 23) hhigh
    _ = w.extractLsb' 0 32 := BitVec.extractLsb'_append_extractLsb'_eq_extractLsb' rfl
    _ = w := BitVec.extractLsb'_eq_self

/-- Settles O14: the slices as numbers, and the two round trips. -/
theorem unpack32CutsFieldsAndInvertsPack32 : Obligations.Unpack32CutsFieldsAndInvertsPack32 := by
  unfold Obligations.Unpack32CutsFieldsAndInvertsPack32
  constructor
  · intro w
    exact ⟨unpack32_sign_toNat w, unpack32_exponent_toNat w, unpack32_mantissa_toNat w, pack32_unpack32 w⟩
  · exact unpack32_pack32

/-- Settles O13: the concatenation as the or of shifts, and as a number. -/
theorem pack32Layout : Obligations.Pack32Layout := by
  unfold Obligations.Pack32Layout
  intro s e m
  exact ⟨pack32_eq_or_shifts s e m, pack32_toNat s e m⟩

end Sys2Proof.Machine
end

section
/-! PROOFS. The 32-bit codec: the ports of ENC32 and DEC32 (40_field_codec_32bit.md R42 to R45) and the round trip from a
triple (R49). -/

namespace Sys2Proof.Machine

/-! ### The ports of the two responses -/

section Ports

variable (v : Word32) (s : Sign) (e : Exp32) (m : Mant32)

@[simp] theorem encode32_rs : (encode32 v).rs = (unpack32 v).sign := rfl

@[simp] theorem encode32_re : (encode32 v).re = (unpack32 v).exponent := rfl

@[simp] theorem encode32_rm : (encode32 v).rm = (unpack32 v).mantissa := rfl

@[simp] theorem encode32_cls :
    (encode32 v).cls = (classify (unpack32 v).exponent (unpack32 v).mantissa).wires := rfl

@[simp] theorem encode32_raw : (encode32 v).raw = v := rfl

@[simp] theorem decode32_raw : (decode32 s e m).raw = pack32 s e m := rfl

@[simp] theorem decode32_sym : (decode32 s e m).sym = (symbolicOf s e m).code := rfl

end Ports

/-! ### The label and the symbolic code -/

/-- The label the classifier gives is one whose condition the pair meets (41_classifier.md R53). -/
theorem labelCondition_classify {w k : Nat} (e : BitVec w) (m : BitVec k) :
    labelCondition (2 ^ w - 1) e.toNat m.toNat (classify e m) := by
  have hle : e.toNat ≤ 2 ^ w - 1 := Nat.le_sub_one_of_lt e.isLt
  unfold classify
  split_ifs with hzero hmant hlt hmant
  · exact ⟨hzero, hmant⟩
  · exact ⟨hzero, hmant⟩
  · exact ⟨Nat.pos_of_ne_zero hzero, hlt⟩
  · exact ⟨Nat.le_antisymm hle (Nat.le_of_not_lt hlt), hmant⟩
  · exact ⟨Nat.le_antisymm hle (Nat.le_of_not_lt hlt), hmant⟩

/-- The maximal exponent of the 32-bit format is the all-ones field. -/
theorem exponent_toNat_eq_maxExponent_iff (e : Exp32) : e.toNat = fmt32.maxExponent ↔ e = 255#8 :=
  BitVec.toNat_inj (y := 255#8)

/-- Below the maximal exponent the code says finite. -/
theorem symbolicOf_of_ne_max (s : Sign) {e : Exp32} (m : Mant32) (he : e ≠ 255#8) : symbolicOf s e m = .finite :=
  if_pos (mt (exponent_toNat_eq_maxExponent_iff e).1 he)

/-- At the maximal exponent the mantissa, and then the sign, choose the code. -/
theorem symbolicOf_max (s : Sign) (m : Mant32) :
    symbolicOf s 255#8 m = if m ≠ 0#23 then .nan else if s = 0#1 then .infinity else .negInfinity :=
  if_neg (not_not_intro rfl)

/-- The code on port `sym` as the table of 30_encoding.md R37. -/
theorem symbolicOf_code (s : Sign) (e : Exp32) (m : Mant32) :
    (symbolicOf s e m).code =
      if e ≠ 255#8 then 0b00#2 else if m ≠ 0#23 then 0b11#2 else if s = 0#1 then 0b01#2 else 0b10#2 := by
  by_cases he : e = 255#8
  · subst he
    rw [symbolicOf_max, if_neg (not_not_intro rfl)]
    split_ifs <;> rfl
  · rw [symbolicOf_of_ne_max s m he, if_pos he]
    rfl

/-! ### A NaN's bits (40_field_codec_32bit.md R45) -/

/-- At the maximal exponent the packed word keeps every mantissa bit beside the all-ones exponent field. -/
theorem pack32_max (s : Sign) (m : Mant32) :
    pack32 s 255#8 m = ((s.setWidth 32 <<< 31) ||| 0x7F800000#32 ||| m.setWidth 32) :=
  pack32_eq_or_shifts s 255#8 m

theorem symbolicOf_max_code_of_mantissa_ne_zero (s : Sign) {m : Mant32} (hm : m ≠ 0#23) :
    (symbolicOf s 255#8 m).code = 0b11#2 := by
  rw [symbolicOf_max, if_pos hm]
  rfl

/-! ### Which operation a step runs -/

theorem step_of_op_enc32 {st : State} (hop : st.inp.op = 0b00#2) : step st = exec (.enc32 st.inp.v) st := by
  rw [step, decode_word, if_pos hop]

theorem step_of_op_dec32 {st : State} (hop : st.inp.op = 0b01#2) :
    step st = exec (.dec32 st.inp.s st.inp.e st.inp.m) st := by
  rw [step, decode_word, if_neg (by rw [hop]; decide), if_pos hop]

/-! ### The statements -/

/-- Settles O20: the packed word unpacks to the triple. -/
theorem encodeOfDecodeIsTheTriple : Obligations.EncodeOfDecodeIsTheTriple := by
  unfold Obligations.EncodeOfDecodeIsTheTriple
  intro s e m st
  refine ⟨_, _, exec_dec32 st s e m, exec_enc32 _ _, ?_⟩
  simp only [encode32_rs, encode32_re, encode32_rm, decode32_raw, unpack32_pack32, and_self]

/-- Settles O17: the label is the classifier's on the cut fields, and packing those fields gives the pattern back. -/
theorem enc32Response : Obligations.Enc32Response := by
  unfold Obligations.Enc32Response
  constructor
  · intro v st
    have hlabel := labelCondition_classify (unpack32 v).exponent (unpack32 v).mantissa
    rw [unpack32_exponent_toNat, unpack32_mantissa_toNat] at hlabel
    exact ⟨_, exec_enc32 st v, rfl, rfl, rfl, rfl, ⟨_, hlabel, encode32_cls v⟩, encode32_raw v,
      (pack32_unpack32 v).symm, rfl, rfl⟩
  · exact fun st => step_of_op_enc32

/-- Settles O18: the packed word as a number, and the symbolic code by cases on the triple. -/
theorem dec32Response : Obligations.Dec32Response := by
  unfold Obligations.Dec32Response
  constructor
  · intro s e m st
    exact ⟨_, exec_dec32 st s e m, rfl, pack32_toNat s e m,
      (decode32_sym s e m).trans (symbolicOf_code s e m), rfl, rfl, rfl, rfl, rfl⟩
  · exact fun st => step_of_op_dec32

/-- Settles O19: every NaN by `pack32_max`; the other operands are single triples. -/
theorem dec32ExtremeOperands : Obligations.Dec32ExtremeOperands := by
  unfold Obligations.Dec32ExtremeOperands
  intro st
  exact ⟨⟨_, exec_dec32 .., rfl, rfl⟩, ⟨_, exec_dec32 .., rfl, rfl⟩,
    fun s m hm => ⟨_, exec_dec32 .., pack32_max s m, symbolicOf_max_code_of_mantissa_ne_zero s hm⟩,
    ⟨_, exec_dec32 .., rfl, rfl⟩, ⟨_, exec_dec32 .., rfl, rfl⟩, ⟨_, exec_dec32 .., rfl, rfl⟩⟩

end Sys2Proof.Machine
end

section
/-! PROOFS. The classifier: its label is the one whose condition holds, exactly one holds in the domain, and its wires
are one-hot (41_classifier.md R53, R54; 30_encoding.md R36). -/

namespace Sys2Proof.Machine

/-! ### The label of a pair of naturals -/

/-- The classifier on naturals, for any maximal exponent: R53's chain of cases without the exponent's width. -/
def labelOf (maxExponent exponent mantissa : Nat) : Classification :=
  if exponent = 0 then
    if mantissa = 0 then .zero else .subnormal
  else if exponent < maxExponent then .normal
  else if mantissa = 0 then .infinite
  else .nan

theorem classify_eq_labelOf {w k : Nat} (e : BitVec w) (m : BitVec k) :
    classify e m = labelOf (2 ^ w - 1) e.toNat m.toNat := rfl

section Labels

variable {maxExponent e m : Nat}

/-- The label chosen for an exponent in the domain is one whose condition holds. -/
theorem labelCondition_labelOf (hle : e ≤ maxExponent) :
    labelCondition maxExponent e m (labelOf maxExponent e m) := by
  unfold labelOf
  split_ifs with hzero hmant hlt hmant
  · exact ⟨hzero, hmant⟩
  · exact ⟨hzero, hmant⟩
  · exact ⟨Nat.pos_of_ne_zero hzero, hlt⟩
  · exact ⟨by omega, hmant⟩
  · exact ⟨by omega, hmant⟩

/-- A label's condition bounds the exponent and leads the chain of cases to that label. The maximal exponent has to be
positive, or zero and infinity would share their condition. -/
theorem le_and_eq_labelOf_of_labelCondition (hmax : 1 ≤ maxExponent) {c : Classification}
    (h : labelCondition maxExponent e m c) : e ≤ maxExponent ∧ c = labelOf maxExponent e m := by
  unfold labelOf
  cases c with
  | zero =>
    obtain ⟨he, hm⟩ := h
    exact ⟨by omega, by rw [if_pos he, if_pos hm]⟩
  | subnormal =>
    obtain ⟨he, hm⟩ := h
    exact ⟨by omega, by rw [if_pos he, if_neg hm]⟩
  | normal =>
    obtain ⟨hpos, hlt⟩ := h
    exact ⟨hlt.le, by rw [if_neg hpos.ne', if_pos hlt]⟩
  | infinite =>
    obtain ⟨he, hm⟩ := h
    exact ⟨he.le, by rw [if_neg (by omega), if_neg he.not_lt, if_pos hm]⟩
  | nan =>
    obtain ⟨he, hm⟩ := h
    exact ⟨he.le, by rw [if_neg (by omega), if_neg he.not_lt, if_neg hm]⟩

/-- The five conditions together: they hold of exponents in the domain only, and there of one label (R54). -/
theorem labelCondition_iff (hmax : 1 ≤ maxExponent) {c : Classification} :
    labelCondition maxExponent e m c ↔ e ≤ maxExponent ∧ c = labelOf maxExponent e m := by
  constructor
  · exact le_and_eq_labelOf_of_labelCondition hmax
  · rintro ⟨hle, rfl⟩
    exact labelCondition_labelOf hle

end Labels

/-! ### The wires of a label -/

/-- The wires of a label are one-hot (30_encoding.md R36). -/
theorem wires_existsUnique_bit (c : Classification) : ∃! i : Fin 5, c.wires.getLsbD i.val = true := by
  cases c with
  | zero => exact ⟨0, rfl, by decide⟩
  | subnormal => exact ⟨1, rfl, by decide⟩
  | normal => exact ⟨2, rfl, by decide⟩
  | infinite => exact ⟨3, rfl, by decide⟩
  | nan => exact ⟨4, rfl, by decide⟩

/-- What port `cls` shows: nothing for DEC32 and for the fault, and the wires of a label otherwise. -/
theorem response_cls_cases (q : Request) :
    (q.op = 0b01#2 ∧ q.response.cls = 0#5) ∨ (q.response.err = 1#1 ∧ q.response.cls = 0#5) ∨
      (q.op ≠ 0b01#2 ∧ q.response.err = 0#1 ∧ ∃ c : Classification, q.response.cls = c.wires) := by
  rw [Request.response, decode_word]
  split_ifs with henc32 hdec32 henc16 hfmt
  · exact .inr (.inr ⟨by rw [henc32]; decide, rfl, _, rfl⟩)
  · exact .inl ⟨hdec32, rfl⟩
  · exact .inr (.inr ⟨hdec32, rfl, _, rfl⟩)
  · exact .inr (.inr ⟨hdec32, rfl, _, rfl⟩)
  · rw [responseOf]
    split_ifs with hrange
    · exact .inr (.inr ⟨hdec32, rfl, _, rfl⟩)
    · exact .inr (.inl ⟨rfl, rfl⟩)

/-! ### The statements -/

/-- Settles O22: a width of at least 1 makes the maximal exponent positive, and the exponent's type keeps it in the
domain, so by `labelCondition_iff` the condition holds of the classifier's label and of no other. -/
theorem classifierConditions : Obligations.ClassifierConditions := by
  unfold Obligations.ClassifierConditions
  intro w k e m hw c
  have hmax : 1 ≤ 2 ^ w - 1 := Nat.le_sub_one_of_lt (Nat.one_lt_two_pow (by omega))
  have hle : e.toNat ≤ 2 ^ w - 1 := Nat.le_sub_one_of_lt e.isLt
  rw [labelCondition_iff hmax, and_iff_right hle, classify_eq_labelOf, eq_comm]

/-- Settles O23: the domain's two sides by `labelCondition_iff`; on the wires, an operation that writes `cls` shows a
label, whose wires are one-hot. -/
theorem exactlyOneLabel : Obligations.ExactlyOneLabel := by
  unfold Obligations.ExactlyOneLabel
  refine ⟨?_, ?_, ?_⟩
  · intro maxExponent e m hmax hle
    exact ⟨labelOf maxExponent e m, labelCondition_labelOf hle, fun c hc => ((labelCondition_iff hmax).1 hc).2⟩
  · intro maxExponent e m hmax hlt c hc
    exact hlt.not_ge ((labelCondition_iff hmax).1 hc).1
  · intro st t hstep hop herr
    rw [step_eq_next_response, Host.Outcome.next.injEq] at hstep
    subst hstep
    obtain ⟨hdec, -⟩ | ⟨hfault, -⟩ | ⟨-, -, c, hcls⟩ := response_cls_cases st.inp
    · exact absurd hdec hop
    · exact absurd (herr.symm.trans hfault) (by decide)
    · rw [hcls]
      exact wires_existsUnique_bit c

end Sys2Proof.Machine
end

section
/-! PROOFS. The rounding unit (43_rounding_unit.md R71 to R77): its result in each range of the exponent field, what
ENC16 then shows on the ports, and that no narrowed triple is (0, 1). -/

namespace Sys2Proof.Machine

/-! ### The unit, range by range -/

section Unit

variable {e : Exp32} (m : Mant32) (h0 : e ≠ 0#8) (h255 : e ≠ 255#8)

/-- R73's shift on naturals: 0 where the exponent does not underflow. -/
theorem underflowShift_rebias_toNat (e : Exp32) : (underflowShift (rebias e)).toNat = 113 - e.toNat := by
  rw [underflowShift, rebias_eq]
  omega

/-- R74: a shift of 10 or more. -/
theorem narrowNormal_of_le_103 (h : e.toNat ≤ 103) : narrowNormal e m h0 h255 = (0#5, 0#10) := by
  have hunder : rebias e ≤ 0 := by rw [rebias_eq]; omega
  have hflush : flushShift ≤ underflowShift (rebias e) := by rw [flushShift, underflowShift, rebias_eq]; omega
  rw [narrowNormal, if_pos hunder, if_pos hflush]

/-- R75: a shift of 1 to 9. -/
theorem narrowNormal_of_104_le_of_le_112 (hlo : 104 ≤ e.toNat) (hhi : e.toNat ≤ 112) :
    narrowNormal e m h0 h255 = (0#5, subnormalMantissa m (113 - e.toNat)) := by
  have hunder : rebias e ≤ 0 := by rw [rebias_eq]; omega
  have hkeep : ¬ flushShift ≤ underflowShift (rebias e) := by rw [flushShift, underflowShift, rebias_eq]; omega
  rw [narrowNormal, if_pos hunder, if_neg hkeep, underflowShift_rebias_toNat]

/-- R77: the rebiased exponent fits the 16-bit normal range, so its five bits are its value. -/
theorem narrowNormal_of_113_le_of_le_142 (hlo : 113 ≤ e.toNat) (hhi : e.toNat ≤ 142) :
    narrowNormal e m h0 h255 = (BitVec.ofNat 5 (e.toNat - 112), normalMantissa m) := by
  have hunder : ¬ rebias e ≤ 0 := by rw [rebias_eq]; omega
  have hover : ¬ 31 ≤ rebias e := by rw [rebias_eq]; omega
  have hrebias : rebias e = ((e.toNat - 112 : Nat) : Int) := by rw [rebias_eq]; omega
  rw [narrowNormal, if_neg hunder, if_neg hover, hrebias, BitVec.ofInt_natCast]

/-- R76: overflow. -/
theorem narrowNormal_of_143_le (h : 143 ≤ e.toNat) : narrowNormal e m h0 h255 = (31#5, 0#10) := by
  have hunder : ¬ rebias e ≤ 0 := by rw [rebias_eq]; omega
  have hover : 31 ≤ rebias e := by rw [rebias_eq]; omega
  rw [narrowNormal, if_neg hunder, if_pos hover]

/-- R72's first case fixes the exponent field before the shift is looked at. -/
theorem narrowNormal_exponent_of_le_112 (h : e.toNat ≤ 112) : (narrowNormal e m h0 h255).1 = 0#5 := by
  obtain hflush | hkeep := le_or_gt e.toNat 103
  · rw [narrowNormal_of_le_103 m h0 h255 hflush]
  · rw [narrowNormal_of_104_le_of_le_112 m h0 h255 hkeep h]

end Unit

/-- A rebiased exponent of the normal case survives in five bits. -/
theorem rebiased_toNat {exp32 : Nat} (h : exp32 ≤ 142) : (BitVec.ofNat 5 (exp32 - 112)).toNat = exp32 - 112 := by
  rw [BitVec.toNat_ofNat, Nat.mod_eq_of_lt (by omega)]

/-- R75's bounds: the significand's leading 1, at bit 23, lands at bit `10 - shift`. -/
theorem shifted_significand_bounds (m : Mant32) {shift : Nat} (h : shift ≤ 10) :
    2 ^ (10 - shift) ≤ (2 ^ 23 + m.toNat) / 2 ^ (13 + shift) ∧
      (2 ^ 23 + m.toNat) / 2 ^ (13 + shift) ≤ 2 ^ (11 - shift) - 1 := by
  have hm := m.isLt
  have hpos : 0 < 2 ^ (13 + shift) := Nat.two_pow_pos _
  constructor
  · rw [Nat.le_div_iff_mul_le hpos, ← Nat.pow_add, show 10 - shift + (13 + shift) = 23 by omega]
    exact Nat.le_add_right _ _
  · apply Nat.le_sub_one_of_lt
    rw [Nat.div_lt_iff_lt_mul hpos, ← Nat.pow_add, show 11 - shift + (13 + shift) = 24 by omega]
    omega

/-- A shift of at most 9 leaves a mantissa of at least 2. -/
theorem two_le_subnormalMantissa (m : Mant32) {shift : Nat} (hlo : 1 ≤ shift) (hhi : shift ≤ 9) :
    2 ≤ (subnormalMantissa m shift).toNat := by
  rw [subnormalMantissa_toNat m shift hlo]
  calc 2 = 2 ^ 1 := rfl
    _ ≤ 2 ^ (10 - shift) := Nat.pow_le_pow_right (by decide) (by omega)
    _ ≤ (2 ^ 23 + m.toNat) / 2 ^ (13 + shift) := (shifted_significand_bounds m (by omega)).1

/-! ### No result is (0, 1) -/

/-- A result with mantissa 1 is normal: a flush and an overflow have mantissa 0, a subnormal result at least 2. -/
theorem narrowNormal_exponent_ne_zero_of_mantissa_eq_one {e : Exp32} {m : Mant32} (h0 : e ≠ 0#8) (h255 : e ≠ 255#8)
    (hone : (narrowNormal e m h0 h255).2.toNat = 1) : (narrowNormal e m h0 h255).1.toNat ≠ 0 := by
  obtain hflush | ⟨hlo, hhi⟩ | ⟨hlo, hhi⟩ | hover : e.toNat ≤ 103 ∨ (104 ≤ e.toNat ∧ e.toNat ≤ 112) ∨
      (113 ≤ e.toNat ∧ e.toNat ≤ 142) ∨ 143 ≤ e.toNat := by omega
  · rw [narrowNormal_of_le_103 m h0 h255 hflush] at hone
    exact absurd hone (by decide)
  · rw [narrowNormal_of_104_le_of_le_112 m h0 h255 hlo hhi] at hone
    have htwo := two_le_subnormalMantissa m (shift := 113 - e.toNat) (by omega) (by omega)
    exact absurd hone (Nat.ne_of_gt htwo)
  · rw [narrowNormal_of_113_le_of_le_142 m h0 h255 hlo hhi, rebiased_toNat hhi]
    omega
  · rw [narrowNormal_of_143_le m h0 h255 hover] at hone
    exact absurd hone (by decide)

/-- Narrowing takes a 32-bit normal value through the rounding unit and keeps its sign. -/
theorem narrow_of_normal {t : Triple32} (h0 : t.exponent ≠ 0#8) (h255 : t.exponent ≠ 255#8) :
    narrow t = Triple16.mk t.sign (narrowNormal t.exponent t.mantissa h0 h255).1
      (narrowNormal t.exponent t.mantissa h0 h255).2 := by
  rw [narrow, dif_neg h255, dif_neg h0]

/-- A NaN and an infinity both have the maximal exponent. -/
theorem narrow_exponent_of_max {t : Triple32} (h255 : t.exponent = 255#8) : (narrow t).exponent = 31#5 := by
  rw [narrow, dif_pos h255]
  split_ifs <;> rfl

/-- A zero and a subnormal both narrow to a zero. -/
theorem narrow_mantissa_of_zero {t : Triple32} (h0 : t.exponent = 0#8) : (narrow t).mantissa = 0#10 := by
  rw [narrow, dif_neg (by rw [h0]; decide), dif_pos h0, ite_self]

/-- No narrowed triple is (0, 1), whichever arm of the chain it comes from. -/
theorem narrow_exponent_ne_zero_of_mantissa_eq_one (t : Triple32) (hone : (narrow t).mantissa.toNat = 1) :
    (narrow t).exponent.toNat ≠ 0 := by
  by_cases h255 : t.exponent = 255#8
  · rw [narrow_exponent_of_max h255]
    decide
  · by_cases h0 : t.exponent = 0#8
    · rw [narrow_mantissa_of_zero h0] at hone
      exact absurd hone (by decide)
    · rw [narrow_of_normal h0 h255] at hone ⊢
      exact narrowNormal_exponent_ne_zero_of_mantissa_eq_one h0 h255 hone

/-! ### The ports of ENC16 -/

section Ports

variable (v : Word32)

@[simp] theorem encode16_rs : (encode16 v).rs = (narrow (unpack32 v)).sign := rfl

@[simp] theorem encode16_re_toNat : (encode16 v).re.toNat = (narrow (unpack32 v)).exponent.toNat :=
  BitVec.toNat_setWidth_of_le (by decide)

@[simp] theorem encode16_rm_toNat : (encode16 v).rm.toNat = (narrow (unpack32 v)).mantissa.toNat :=
  BitVec.toNat_setWidth_of_le (by decide)

/-- A label whose condition the narrowed pair meets is the label ENC16 shows. -/
theorem encode16_cls_of_labelCondition {c : Classification}
    (hc : labelCondition 31 (narrow (unpack32 v)).exponent.toNat (narrow (unpack32 v)).mantissa.toNat c) :
    (encode16 v).cls = c.wires := by
  obtain ⟨-, hlabel⟩ := (labelCondition_iff (by decide)).1 hc
  rw [hlabel]
  rfl

end Ports

section Shown

variable {v : Word32} (st : State)

/-- What ENC16 shows for a 32-bit normal value: the input's sign and the rounding unit's pair. -/
theorem exec_enc16_shows_narrowNormal (hlo : 1 ≤ exponentField v) (hhi : exponentField v ≤ 254)
    {e : Exp16} {m : Mant16} {c : Classification}
    (hunit : ∀ h0 h255, narrowNormal (unpack32 v).exponent (unpack32 v).mantissa h0 h255 = (e, m))
    (hc : labelCondition 31 e.toNat m.toNat c) :
    ∃ t, exec (.enc16 v) st = .next t ∧ t.shows (signField v) e.toNat m.toNat c := by
  have hexp := unpack32_exponent_toNat v
  have h0 : (unpack32 v).exponent ≠ 0#8 := by
    rw [BitVec.toNat_ne, hexp]
    exact Nat.ne_of_gt hlo
  have h255 : (unpack32 v).exponent ≠ 255#8 := by
    rw [BitVec.toNat_ne, hexp]
    exact Nat.ne_of_lt (Nat.lt_succ_of_le hhi)
  have hnarrow : narrow (unpack32 v) = Triple16.mk (unpack32 v).sign e m := by
    rw [narrow_of_normal h0 h255, hunit h0 h255]
  refine ⟨_, exec_enc16 st v, ?_, ?_, ?_, encode16_cls_of_labelCondition v ?_⟩
  · rw [encode16_rs, hnarrow, unpack32_sign_toNat]
  · rw [encode16_re_toNat, hnarrow]
  · rw [encode16_rm_toNat, hnarrow]
  · rw [hnarrow]
    exact hc

theorem exec_enc16_shows_zero (hlo : 1 ≤ exponentField v) (hhi : exponentField v ≤ 103) :
    ∃ t, exec (.enc16 v) st = .next t ∧ t.shows (signField v) 0 0 .zero :=
  exec_enc16_shows_narrowNormal st hlo (by omega)
    (fun h0 h255 => narrowNormal_of_le_103 _ h0 h255 (by rwa [unpack32_exponent_toNat])) ⟨rfl, rfl⟩

theorem exec_enc16_shows_subnormal (hlo : 104 ≤ exponentField v) (hhi : exponentField v ≤ 112) :
    ∃ t, exec (.enc16 v) st = .next t ∧
      t.shows (signField v) 0 ((2 ^ 23 + mantissaField v) / 2 ^ (13 + (113 - exponentField v))) .subnormal := by
  have hunit (h0 h255) : narrowNormal (unpack32 v).exponent (unpack32 v).mantissa h0 h255 =
      (0#5, subnormalMantissa (unpack32 v).mantissa (113 - exponentField v)) := by
    rw [← unpack32_exponent_toNat] at hlo hhi ⊢
    exact narrowNormal_of_104_le_of_le_112 _ h0 h255 hlo hhi
  have htwo := two_le_subnormalMantissa (unpack32 v).mantissa (shift := 113 - exponentField v) (by omega) (by omega)
  have hshows := exec_enc16_shows_narrowNormal st (by omega) (by omega) hunit (c := .subnormal) ⟨rfl, by omega⟩
  rwa [subnormalMantissa_toNat _ _ (by omega), unpack32_mantissa_toNat] at hshows

theorem exec_enc16_shows_normal (hlo : 113 ≤ exponentField v) (hhi : exponentField v ≤ 142) :
    ∃ t, exec (.enc16 v) st = .next t ∧
      t.shows (signField v) (exponentField v - 112) (mantissaField v / 2 ^ 13) .normal := by
  have hunit (h0 h255) : narrowNormal (unpack32 v).exponent (unpack32 v).mantissa h0 h255 =
      (BitVec.ofNat 5 (exponentField v - 112), normalMantissa (unpack32 v).mantissa) := by
    rw [← unpack32_exponent_toNat] at hlo hhi ⊢
    exact narrowNormal_of_113_le_of_le_142 _ h0 h255 hlo hhi
  have hexp := rebiased_toNat hhi
  have hshows := exec_enc16_shows_narrowNormal st (by omega) (by omega) hunit (c := .normal)
    (by rw [hexp]; exact ⟨by omega, by omega⟩)
  rwa [hexp, normalMantissa_toNat, unpack32_mantissa_toNat] at hshows

theorem exec_enc16_shows_infinite (hlo : 143 ≤ exponentField v) (hhi : exponentField v ≤ 254) :
    ∃ t, exec (.enc16 v) st = .next t ∧ t.shows (signField v) 31 0 .infinite :=
  exec_enc16_shows_narrowNormal st (by omega) hhi
    (fun h0 h255 => narrowNormal_of_143_le _ h0 h255 (by rwa [unpack32_exponent_toNat])) ⟨rfl, rfl⟩

end Shown

/-- On the ports: exponent 0 and a non-zero mantissa mean a mantissa of at least 2. -/
theorem two_le_encode16_rm (v : Word32) (hre : (encode16 v).re = 0#8) (hrm : (encode16 v).rm ≠ 0#23) :
    2 ≤ (encode16 v).rm.toNat := by
  have hexp : (narrow (unpack32 v)).exponent.toNat = 0 := by rw [← encode16_re_toNat, hre]; rfl
  have hpos : (encode16 v).rm.toNat ≠ 0 := BitVec.toNat_ne.1 hrm
  have hone : (encode16 v).rm.toNat ≠ 1 := by
    rw [encode16_rm_toNat]
    exact fun h => narrow_exponent_ne_zero_of_mantissa_eq_one _ h hexp
  omega

/-! ### The statements -/

/-- Settles O34: the bounds from the exponent's range, and each case by the unit's equation for that range. -/
theorem rebiasedExponentSplitsThreeWays : Obligations.RebiasedExponentSplitsThreeWays := by
  unfold Obligations.RebiasedExponentSplitsThreeWays
  intro e m h0 h255
  have hpos : e.toNat ≠ 0 := BitVec.toNat_ne.1 h0
  have hlt : e.toNat ≠ 255 := BitVec.toNat_ne.1 h255
  have hwidth := e.isLt
  rw [rebias_eq]
  refine ⟨by omega, by omega, by omega, ?_, ?_, ?_⟩
  · intro hunder
    exact narrowNormal_exponent_of_le_112 m h0 h255 (by omega)
  · intro hover
    exact narrowNormal_of_143_le m h0 h255 (by omega)
  · intro hlo hhi
    rw [narrowNormal_of_113_le_of_le_142 m h0 h255 (by omega) (by omega), rebiased_toNat (by omega)]
    omega

/-- Settles O35: the flush by its range of the exponent field, and mantissa 1 excluded by `two_le_encode16_rm`. -/
theorem shiftOfTenOrMoreFlushesToZero : Obligations.ShiftOfTenOrMoreFlushesToZero := by
  unfold Obligations.ShiftOfTenOrMoreFlushesToZero
  refine ⟨?_, ?_, ?_⟩
  · intro v st hlo hshift
    exact exec_enc16_shows_zero st hlo (by omega)
  · rintro v st t hexec ⟨hre, hrm⟩
    rw [exec_enc16, Host.Outcome.next.injEq] at hexec
    subst hexec
    have htwo := two_le_encode16_rm v hre (by rw [hrm]; decide)
    rw [hrm] at htwo
    exact absurd htwo (by decide)
  · intro v st t hexec
    rw [exec_enc16, Host.Outcome.next.injEq] at hexec
    subst hexec
    exact two_le_encode16_rm v

/-- Settles O36: the ports show the shifted significand, which `shifted_significand_bounds` bounds. -/
theorem subnormalResultIsTruncatedSignificand : Obligations.SubnormalResultIsTruncatedSignificand := by
  unfold Obligations.SubnormalResultIsTruncatedSignificand
  intro v st hlo hhi
  obtain ⟨t, hexec, -, hre, hrm, hcls⟩ := exec_enc16_shows_subnormal st hlo hhi
  have hbounds := shifted_significand_bounds (unpack32 v).mantissa (shift := 113 - exponentField v) (by omega)
  rw [unpack32_mantissa_toNat, ← hrm] at hbounds
  exact ⟨t, hexec, BitVec.eq_of_toNat_eq hre, hcls, hrm, hbounds⟩

/-- Settles O37: a rebiased exponent of 31 or more is an exponent field of 143 or more. -/
theorem overflowGivesInfinity : Obligations.OverflowGivesInfinity := by
  unfold Obligations.OverflowGivesInfinity
  intro v st hover hhi
  exact exec_enc16_shows_infinite st (by omega) hhi

/-- Settles O38: the ports show the rebiased exponent and the mantissa shifted right by 13. -/
theorem normalResultTruncatesMantissa : Obligations.NormalResultTruncatesMantissa := by
  unfold Obligations.NormalResultTruncatesMantissa
  intro v st hlo hhi
  obtain ⟨t, hexec, -, hre, hrm, hcls⟩ := exec_enc16_shows_normal st hlo hhi
  exact ⟨t, hexec, by omega, hrm, hcls⟩

end Sys2Proof.Machine
end

section
/-! PROOFS. Requests and their operations: the decoder inverts the encoder (30_encoding.md R28, R39, R40), reads the ports
of R29 and no others, and what a step and the reset state show (10_state.md R10, 70_reset_and_hazards.md R94). -/

namespace Sys2Proof.Machine

/-! ### The decoder and the encoder -/

/-- `decode_word` for a request word written by its fields. -/
theorem decode_reqWord (op : BitVec 2) (fmt : BitVec 1) (s : Sign) (e : Exp32) (m : Mant32) (v : Word32) :
    decode (reqWord op fmt s e m v) =
      if op = 0b00#2 then .enc32 v
      else if op = 0b01#2 then .dec32 s e m
      else if op = 0b10#2 then .enc16 v
      else if fmt = 0#1 then .classify32 e m
      else .classify16 e m :=
  decode_word { op := op, fmt := fmt, s := s, e := e, m := m, v := v }

/-- Each operation's code, and for CLASSIFY its selector, leads the decoder's chain of cases back to the operation. -/
@[simp] theorem decode_encode (i : Instr) : decode (encode i) = i := by
  cases i with
  | enc32 v => exact decode_reqWord ..
  | dec32 s e m => exact decode_reqWord ..
  | enc16 v => exact decode_reqWord ..
  | classify32 e m => exact decode_reqWord ..
  | classify16 e m => exact decode_reqWord ..

@[simp] theorem word_ofWord (w : ReqWord) : (Request.ofWord w).word = w := reqWord_fields w

@[simp] theorem word_ofInstr (i : Instr) : (Request.ofInstr i).word = encode i := word_ofWord (encode i)

/-- The values on the ports are the fields of their own request word. -/
@[simp] theorem ofWord_word (q : Request) : Request.ofWord q.word = q := by
  rw [Request.ofWord, Request.word, reqOp_reqWord, reqFmt_reqWord, reqS_reqWord, reqE_reqWord, reqM_reqWord,
    reqV_reqWord]

/-- An assembled request's response is that of its operation. -/
@[simp] theorem response_ofInstr (i : Instr) : (Request.ofInstr i).response = responseOf i := by
  rw [Request.response, word_ofInstr, decode_encode]

/-- Everything a step can do (10_state.md R10). -/
theorem step_eq_next_iff {st t : State} :
    step st = .next t ↔ t = { inp := st.inp, out := st.inp.response } := by
  rw [step_eq_next_response, Host.Outcome.next.injEq, eq_comm]

/-! ### The read ports -/

/-- The code of an operation (30_encoding.md R28). -/
def opCode : Instr → BitVec 2
  | .enc32 _ => 0b00#2
  | .dec32 _ _ _ => 0b01#2
  | .enc16 _ => 0b10#2
  | .classify32 _ _ => 0b11#2
  | .classify16 _ _ => 0b11#2

/-- All four codes are assigned, so the last arm of the decoder's chain is the code 0b11. -/
theorem op_eq_three {op : BitVec 2} (h0 : op ≠ 0b00#2) (h1 : op ≠ 0b01#2) (h2 : op ≠ 0b10#2) : op = 0b11#2 := by
  revert op
  decide

theorem fmt_eq_one {fmt : BitVec 1} (h : fmt ≠ 0#1) : fmt = 1#1 := (BitVec.eq_zero_or_eq_one fmt).resolve_left h

/-- The operation decoded has the code on port `op`. -/
theorem opCode_decode_word (q : Request) : opCode (decode q.word) = q.op := by
  rw [decode_word]
  split_ifs with h0 h1 h2 hfmt
  · exact h0.symm
  · exact h1.symm
  · exact h2.symm
  · exact (op_eq_three h0 h1 h2).symm
  · exact (op_eq_three h0 h1 h2).symm

section Classify

variable {q : Request} (hop : q.op = 0b11#2)
include hop

theorem decode_word_classify32 (hfmt : q.fmt = 0#1) : decode q.word = .classify32 q.e q.m := by
  rw [decode_word, hop, hfmt]
  rfl

theorem decode_word_classify16 (hfmt : q.fmt = 1#1) : decode q.word = .classify16 q.e q.m := by
  rw [decode_word, hop, hfmt]
  rfl

end Classify

/-- The row of 30_encoding.md R29 for each code: with one code on both, the operations agree as the read ports do. -/
theorem decode_word_eq_iff_of_op_eq {q q' : Request} (hop : q.op = q'.op) :
    decode q.word = decode q'.word ↔ q.sameRead q' := by
  by_cases h0 : q'.op = 0b00#2
  · simp [decode_word, Request.sameRead, hop, h0]
  by_cases h1 : q'.op = 0b01#2
  · simp [decode_word, Request.sameRead, hop, h1]
  by_cases h2 : q'.op = 0b10#2
  · simp [decode_word, Request.sameRead, hop, h2]
  have h3 := op_eq_three h0 h1 h2
  obtain hfmt | hfmt := BitVec.eq_zero_or_eq_one q.fmt <;> obtain hfmt' | hfmt' := BitVec.eq_zero_or_eq_one q'.fmt <;>
    simp [decode_word, Request.sameRead, hop, h3, hfmt, hfmt']

theorem decode_word_eq_iff (q q' : Request) : decode q.word = decode q'.word ↔ q.sameRead q' := by
  constructor
  · intro h
    have hop : q.op = q'.op := by rw [← opCode_decode_word, h, opCode_decode_word]
    exact (decode_word_eq_iff_of_op_eq hop).1 h
  · intro h
    exact (decode_word_eq_iff_of_op_eq h.1).2 h

/-! ### The statements -/

/-- Settles O2: the word by `decode_encode`, and its nine bytes by `decodeBytes_reqBytes`. -/
theorem decodeInvertsEncode : Obligations.DecodeInvertsEncode := by
  unfold Obligations.DecodeInvertsEncode
  intro i rest
  constructor
  · exact decode_encode i
  · rw [encodeBytes, decodeBytes_reqBytes, decode_encode]

/-- Settles O4: the operation fixes the code, and with one code on both requests the read ports decide. -/
theorem decodeReadsExactlyTheReadPorts : Obligations.DecodeReadsExactlyTheReadPorts := by
  unfold Obligations.DecodeReadsExactlyTheReadPorts
  exact decode_word_eq_iff

/-- Settles O5: requests that agree on the read ports decode alike, and the response is that of the operation. -/
theorem ignoredPortsHaveNoEffect : Obligations.IgnoredPortsHaveNoEffect := by
  unfold Obligations.IgnoredPortsHaveNoEffect
  intro q q' hread
  have hresponse : q'.response = q.response := congrArg responseOf ((decode_word_eq_iff q q').2 hread).symm
  refine ⟨q.response, fun st st' => ⟨?_, ?_⟩⟩
  · rw [step_eq_next_response, present_inp]
  · rw [step_eq_next_response, present_inp, hresponse]

/-- Settles O6: the function is `Request.response`. -/
theorem responseIsFunctionOfRequest : Obligations.ResponseIsFunctionOfRequest := by
  unfold Obligations.ResponseIsFunctionOfRequest
  exact ⟨Request.response, step_eq_next_response⟩

/-- Settles O7: a step keeps the inputs, and the response is a function of them. -/
theorem stepIsIdempotent : Obligations.StepIsIdempotent := by
  unfold Obligations.StepIsIdempotent
  intro st
  exact ⟨_, step_eq_next_response st, step_eq_next_response _⟩

/-- Settles O28: the state after the fault holds the same inputs, and the next request's response reads nothing else. -/
theorem faultLeavesNoTrace : Obligations.FaultLeavesNoTrace := by
  unfold Obligations.FaultLeavesNoTrace
  intro st t hstep _
  obtain rfl := step_eq_next_iff.1 hstep
  refine ⟨rfl, fun q other => ?_⟩
  rw [step_eq_next_response, step_eq_next_response, present_inp, present_inp]

/-- Settles O1: the request's bytes decode to what its word decodes to, and a step runs that. -/
theorem stepRunsDecodedRequest : Obligations.StepRunsDecodedRequest := by
  unfold Obligations.StepRunsDecodedRequest
  refine ⟨?_, ?_, ?_⟩
  · intro st
    have hbytes := decodeBytes_reqBytes st.inp.word []
    rw [List.append_nil] at hbytes
    exact ⟨decode st.inp.word, hbytes, rfl⟩
  · intro i rest st hbytes
    rw [decodeBytes_reqBytes, Except.ok.injEq, Prod.mk.injEq] at hbytes
    rw [← hbytes.1, step]
  · intro i st
    rw [step_present, word_ofInstr, decode_encode]

/-- Settles O3: five closed words. -/
theorem specWordsDecode : Obligations.SpecWordsDecode := by
  unfold Obligations.SpecWordsDecode
  decide

/-- Settles O46: the inputs of 0 are ENC32 of the pattern 0, and the outputs at reset are its response. -/
theorem resetShowsResponseToZeroRequest : Obligations.ResetShowsResponseToZeroRequest := by
  unfold Obligations.ResetShowsResponseToZeroRequest
  have hinp : State.reset.inp = Request.ofInstr (.enc32 0#32) := by decide
  refine ⟨hinp, ?_, rfl, rfl, rfl, rfl, rfl, rfl, rfl⟩
  rw [step_eq_next_response, hinp, response_ofInstr, ← hinp]
  rfl

end Sys2Proof.Machine
end

section
/-! PROOFS. Words: the layouts of REQ and RSP (30_encoding.md R27, R35), the packed 16-bit word (R33), and words as bytes
(20_memory.md R21). -/

namespace Sys2Proof.Machine

/-! ### REQ and RSP -/

/-- REQ[63:32] is the packed word of the field operands (30_encoding.md R27). -/
theorem word_extractLsb'_fields (q : Request) : q.word.extractLsb' 32 32 = pack32 q.s q.e q.m := by
  apply BitVec.eq_of_toNat_eq
  simp only [Request.word, BitVec.extractLsb'_toNat, reqWord_toNat, pack32_toNat, Nat.shiftRight_eq_div_pow]
  omega

theorem response_word_toNat (r : Response) : r.word.toNat = r.err.toNat * 2 ^ 71 + r.sym.toNat * 2 ^ 69 +
    r.cls.toNat * 2 ^ 64 + r.rs.toNat * 2 ^ 63 + r.re.toNat * 2 ^ 55 + r.rm.toNat * 2 ^ 32 + r.raw.toNat := by
  simp only [Response.word, append_toNat]
  ring

/-- Two responses with one RSP agree on every port. -/
theorem ports_eq_of_word_eq {r r' : Response} (h : r.word = r'.word) :
    r.err = r'.err ∧ r.sym = r'.sym ∧ r.cls = r'.cls ∧ r.rs = r'.rs ∧ r.re = r'.re ∧ r.rm = r'.rm ∧
      r.raw = r'.raw := by
  have hnat := congrArg BitVec.toNat h
  rw [response_word_toNat, response_word_toNat] at hnat
  simp only [← BitVec.toNat_inj]
  omega

/-! ### The packed 16-bit word -/

@[simp] theorem unpack16_pack16 (s : Sign) (e : Exp16) (m : Mant16) :
    unpack16 (pack16 s e m) = { sign := s, exponent := e, mantissa := m } := by
  have hsign : (pack16 s e m).extractLsb' 15 1 = s := by
    rw [pack16, BitVec.append_assoc]
    exact BitVec.extractLsb'_append_eq_left
  have hexponent : (pack16 s e m).extractLsb' 10 5 = e :=
    (BitVec.extractLsb'_append_eq_of_le (by decide)).trans BitVec.extractLsb'_append_eq_right
  have hmantissa : (pack16 s e m).extractLsb' 0 10 = m := BitVec.extractLsb'_append_eq_right
  rw [unpack16, hsign, hexponent, hmantissa]

@[simp] theorem pack16_unpack16 (h : Word16) :
    pack16 (unpack16 h).sign (unpack16 h).exponent (unpack16 h).mantissa = h := by
  have hhigh : h.extractLsb' 15 1 ++ h.extractLsb' 10 5 = h.extractLsb' 10 6 :=
    BitVec.extractLsb'_append_extractLsb'_eq_extractLsb' rfl
  calc pack16 (unpack16 h).sign (unpack16 h).exponent (unpack16 h).mantissa
    _ = h.extractLsb' 15 1 ++ h.extractLsb' 10 5 ++ h.extractLsb' 0 10 := rfl
    _ = h.extractLsb' 10 6 ++ h.extractLsb' 0 10 := congrArg (· ++ h.extractLsb' 0 10) hhigh
    _ = h.extractLsb' 0 16 := BitVec.extractLsb'_append_extractLsb'_eq_extractLsb' rfl
    _ = h := BitVec.extractLsb'_eq_self

/-! ### Bytes -/

/-- Each byte of a 32-bit word is a slice of it. -/
theorem word32Bytes_eq (w : Word32) :
    word32Bytes w = [w.extractLsb' 24 8, w.extractLsb' 16 8, w.extractLsb' 8 8, w.extractLsb' 0 8] := rfl

theorem word16Bytes_eq (h : Word16) : word16Bytes h = [h.extractLsb' 8 8, h.extractLsb' 0 8] := rfl

/-- The bytes of a word that fits them read back as the word's number. -/
theorem natOfBytes_bytesOfNat_toNat {n k : Nat} (x : BitVec n) (hwidth : 2 ^ n ≤ 256 ^ k) :
    natOfBytes (bytesOfNat k x.toNat) = x.toNat := by
  rw [natOfBytes_bytesOfNat, Nat.mod_eq_of_lt (x.isLt.trans_le hwidth)]

/-- The exponent lies across the first byte and the second. -/
theorem pack32_first_bytes (s : Sign) (e : Exp32) (m : Mant32) :
    (pack32 s e m).extractLsb' 24 8 = s ++ e.extractLsb' 1 7 ∧
      (pack32 s e m).extractLsb' 16 8 = e.extractLsb' 0 1 ++ m.extractLsb' 16 7 := by
  constructor <;>
  · apply BitVec.eq_of_toNat_eq
    simp only [append_toNat, BitVec.extractLsb'_toNat, pack32_toNat, Nat.shiftRight_eq_div_pow]
    omega

/-! ### The statements -/

/-- Settles O10: the layout as a number, and the two round trips. -/
theorem requestWordLayout : Obligations.RequestWordLayout := by
  unfold Obligations.RequestWordLayout
  constructor
  · intro q
    exact ⟨reqWord_toNat .., ofWord_word q, word_extractLsb'_fields q⟩
  · exact word_ofWord

/-- Settles O11: the layout of the concatenation. -/
theorem responseWordLayout : Obligations.ResponseWordLayout := by
  unfold Obligations.ResponseWordLayout
  exact response_word_toNat

/-- Settles O15: the layout as a number, and the two round trips. -/
theorem pack16LayoutAndInverse : Obligations.Pack16LayoutAndInverse := by
  unfold Obligations.Pack16LayoutAndInverse
  constructor
  · intro s e m
    exact ⟨pack16_toNat s e m, unpack16_pack16 s e m⟩
  · exact pack16_unpack16

/-- Settles O16: the bytes are slices from the top of the word, and enough of them read back as its number. -/
theorem bytesAreBigEndian : Obligations.BytesAreBigEndian := by
  unfold Obligations.BytesAreBigEndian
  refine ⟨?_, word16Bytes_eq, ?_, ?_⟩
  · intro w
    exact ⟨word32Bytes_eq w, natOfBytes_bytesOfNat_toNat w (by decide)⟩
  · intro s e m
    obtain ⟨hfirst, hsecond⟩ := pack32_first_bytes s e m
    rw [word32Bytes_eq, hfirst, hsecond]
    rfl
  · intro r
    exact ⟨bytesOfNat_length 9 _, natOfBytes_bytesOfNat_toNat r.word (by decide)⟩

/-- Settles O21: packing the fields of a pattern gives the pattern back. -/
theorem decodeOfEncodeIsThePattern : Obligations.DecodeOfEncodeIsThePattern := by
  unfold Obligations.DecodeOfEncodeIsThePattern
  intro v st
  refine ⟨_, _, exec_enc32 st v, exec_dec32 _ _ _ _, ?_⟩
  rw [decode32_raw, encode32_rs, encode32_re, encode32_rm, pack32_unpack32]

end Sys2Proof.Machine
end

section
/-! PROOFS. Narrowing by the exponent field (42_narrowing_codec_16bit.md R59 to R70, 43_rounding_unit.md R71 to R78): the
narrowed triple in each range, its label and packed word, and that every response is legal. -/

namespace Sys2Proof.Machine

/-! ### The narrowed triple, range by range -/

theorem exponent_ne_zero {e : Exp32} (h : 1 ≤ e.toNat) : e ≠ 0#8 := by
  rintro rfl
  exact absurd h (by decide)

theorem exponent_ne_max {e : Exp32} (h : e.toNat ≤ 254) : e ≠ 255#8 := by
  rintro rfl
  exact absurd h (by decide)

section Ranges

variable {t : Triple32}

theorem narrow_nan (hmax : t.exponent.toNat = 255) (hmant : t.mantissa.toNat ≠ 0) : narrow t = nan16 := by
  have h255 : t.exponent = 255#8 := BitVec.eq_of_toNat_eq hmax
  rw [narrow, dif_pos h255, if_pos (BitVec.toNat_ne.2 hmant)]

/-- Every exponent field that flushes, the zeros and the 32-bit subnormals among them (R63, R64, R74). -/
theorem narrow_of_le_103 (hhi : t.exponent.toNat ≤ 103) :
    narrow t = { sign := t.sign, exponent := 0#5, mantissa := 0#10 } := by
  have h255 : t.exponent ≠ 255#8 := exponent_ne_max (by omega)
  by_cases h0 : t.exponent = 0#8
  · rw [narrow, dif_neg h255, dif_pos h0, ite_self]
  · rw [narrow_of_normal h0 h255, narrowNormal_of_le_103 _ h0 h255 hhi]

theorem narrow_of_104_le_of_le_112 (hlo : 104 ≤ t.exponent.toNat) (hhi : t.exponent.toNat ≤ 112) :
    narrow t = Triple16.mk t.sign 0#5 (subnormalMantissa t.mantissa (113 - t.exponent.toNat)) := by
  have h0 : t.exponent ≠ 0#8 := exponent_ne_zero (by omega)
  have h255 : t.exponent ≠ 255#8 := exponent_ne_max (by omega)
  rw [narrow_of_normal h0 h255, narrowNormal_of_104_le_of_le_112 _ h0 h255 hlo hhi]

theorem narrow_of_113_le_of_le_142 (hlo : 113 ≤ t.exponent.toNat) (hhi : t.exponent.toNat ≤ 142) :
    narrow t = Triple16.mk t.sign (BitVec.ofNat 5 (t.exponent.toNat - 112)) (normalMantissa t.mantissa) := by
  have h0 : t.exponent ≠ 0#8 := exponent_ne_zero (by omega)
  have h255 : t.exponent ≠ 255#8 := exponent_ne_max (by omega)
  rw [narrow_of_normal h0 h255, narrowNormal_of_113_le_of_le_142 _ h0 h255 hlo hhi]

/-- Every pattern from the overflow bound on that is no NaN, the infinities among them (R61, R76). -/
theorem narrow_of_143_le (hlo : 143 ≤ t.exponent.toNat) (hnan : ¬ (t.exponent.toNat = 255 ∧ t.mantissa.toNat ≠ 0)) :
    narrow t = { sign := t.sign, exponent := 31#5, mantissa := 0#10 } := by
  have h0 : t.exponent ≠ 0#8 := exponent_ne_zero (by omega)
  by_cases h255 : t.exponent = 255#8
  · have hmant : t.mantissa = 0#23 := by
      by_contra hne
      exact hnan ⟨congrArg BitVec.toNat h255, BitVec.toNat_ne.1 hne⟩
    rw [narrow, dif_pos h255, if_neg (not_not_intro hmant)]
  · rw [narrow_of_normal h0 h255, narrowNormal_of_143_le _ h0 h255 hlo]

/-- Only an overflow and the maximal exponent reach exponent 31. -/
theorem narrow_exponent_eq_31_iff (t : Triple32) : (narrow t).exponent.toNat = 31 ↔ 143 ≤ t.exponent.toNat := by
  obtain hflush | ⟨hlo, hhi⟩ | ⟨hlo, hhi⟩ | hover : t.exponent.toNat ≤ 103 ∨
      (104 ≤ t.exponent.toNat ∧ t.exponent.toNat ≤ 112) ∨ (113 ≤ t.exponent.toNat ∧ t.exponent.toNat ≤ 142) ∨
      143 ≤ t.exponent.toNat := by omega
  · rw [narrow_of_le_103 hflush, BitVec.toNat_ofNat]
    omega
  · rw [narrow_of_104_le_of_le_112 hlo hhi, BitVec.toNat_ofNat]
    omega
  · rw [narrow_of_113_le_of_le_142 hlo hhi, rebiased_toNat hhi]
    omega
  · refine iff_of_true ?_ hover
    by_cases hnan : t.exponent.toNat = 255 ∧ t.mantissa.toNat ≠ 0
    · rw [narrow_nan hnan.1 hnan.2]
      rfl
    · rw [narrow_of_143_le hover hnan]
      rfl

end Ranges

/-! ### The label of the narrowed pair -/

/-- The label read back from its wires (30_encoding.md R36). -/
@[simp] theorem ofWires_wires (c : Classification) : Classification.ofWires c.wires = some c := by
  cases c <;> rfl

theorem wires_injective : Function.Injective Classification.wires := by
  intro c d h
  exact Option.some.inj (by rw [← ofWires_wires c, h, ofWires_wires])

/-- ENC16 shows a label exactly when the narrowed pair meets its condition. -/
theorem encode16_cls_eq_wires_iff (v : Word32) (c : Classification) : (encode16 v).cls = c.wires ↔
    labelCondition 31 (narrow (unpack32 v)).exponent.toNat (narrow (unpack32 v)).mantissa.toNat c := by
  refine ⟨fun h => ?_, encode16_cls_of_labelCondition v⟩
  have hlabel : classify (narrow (unpack32 v)).exponent (narrow (unpack32 v)).mantissa = c := wires_injective h
  exact hlabel ▸ labelCondition_classify _ _

/-! ### Every response is legal -/

/-- With exponent 31 the triple is an infinity or NAN16, and with exponent 0 its mantissa is not 1 (R68, R74). -/
theorem narrowed_narrow (t : Triple32) : (narrow t).narrowed = true := by
  rw [Triple16.narrowed, Bool.and_eq_true, Bool.or_eq_true, Bool.or_eq_true, Bool.or_eq_true, decide_eq_true_iff,
    decide_eq_true_iff, decide_eq_true_iff, decide_eq_true_iff, decide_eq_true_iff]
  constructor
  · by_cases hover : 143 ≤ t.exponent.toNat
    · by_cases hnan : t.exponent.toNat = 255 ∧ t.mantissa.toNat ≠ 0
      · exact .inr (narrow_nan hnan.1 hnan.2)
      · exact .inl (.inr (by rw [narrow_of_143_le hover hnan]))
    · exact .inl (.inl (BitVec.toNat_ne.2 (mt (narrow_exponent_eq_31_iff t).1 hover)))
  · by_cases hone : (narrow t).mantissa.toNat = 1
    · exact .inl (BitVec.toNat_ne.2 (narrow_exponent_ne_zero_of_mantissa_eq_one t hone))
    · exact .inr (BitVec.toNat_ne.2 hone)

theorem legal_responseOf (i : Instr) : (responseOf i).legal = true := by
  cases i with
  | enc32 v => simp [responseOf, encode32, Response.legal, Triple32.rawBits]
  | dec32 s e m => simp [responseOf, decode32, Response.legal]
  | enc16 v => simp [responseOf, encode16, Response.legal, narrowed_narrow]
  | classify32 e m => rfl
  | classify16 e m =>
    rw [responseOf]
    split_ifs <;> rfl

/-- Settles O47: a step shows the response of the decoded operation, which is legal whatever the operation. -/
theorem everyStepGivesLegalResponse : Obligations.EveryStepGivesLegalResponse := by
  unfold Obligations.EveryStepGivesLegalResponse
  intro st t hstep
  obtain rfl := step_eq_next_iff.1 hstep
  exact legal_responseOf _

/-- Settles O48: the response at reset is ENC32's to the pattern 0, and every operation's response is legal. -/
theorem resetResponseIsLegal : Obligations.ResetResponseIsLegal := by
  unfold Obligations.ResetResponseIsLegal
  exact legal_responseOf (.enc32 0#32)

end Sys2Proof.Machine
end

section
/-! PROOFS. ENC16 on the ports: the table over the exponent field (42_narrowing_codec_16bit.md R69), NaNs, infinities and
zeros (R60 to R64), and the sign (R70). -/

namespace Sys2Proof.Machine

/-! ### ENC16's response, range by range -/

/-- Everything ENC16 can do. -/
theorem exec_enc16_eq_next_iff {v : Word32} {st t : State} :
    exec (.enc16 v) st = .next t ↔ t = { inp := st.inp, out := encode16 v } := by
  rw [exec_enc16, Host.Outcome.next.injEq, eq_comm]

section Responses

variable {v : Word32}

theorem unpack32_sign_eq_ofNat (v : Word32) : (unpack32 v).sign = BitVec.ofNat 1 (signField v) := by
  rw [← unpack32_sign_toNat, BitVec.ofNat_toNat, BitVec.setWidth_eq]

theorem signField_eq_zero_or_one (v : Word32) : signField v = 0 ∨ signField v = 1 := by
  have := v.isLt
  rw [signField]
  omega

theorem encode16_nan (hmax : exponentField v = 255) (hmant : mantissaField v ≠ 0) :
    encode16 v = .enc16 nan16 .nan 0x7C01#16 := by
  have hnarrow : narrow (unpack32 v) = nan16 :=
    narrow_nan (by rw [unpack32_exponent_toNat, hmax]) (by rwa [unpack32_mantissa_toNat])
  rw [encode16, hnarrow]
  rfl

theorem encode16_infinite (hlo : 143 ≤ exponentField v) (hnan : ¬ (exponentField v = 255 ∧ mantissaField v ≠ 0)) :
    encode16 v = .enc16 { sign := BitVec.ofNat 1 (signField v), exponent := 31#5, mantissa := 0#10 } .infinite
      (if signField v = 1 then 0xFC00#16 else 0x7C00#16) := by
  rw [← unpack32_exponent_toNat] at hlo
  rw [← unpack32_exponent_toNat, ← unpack32_mantissa_toNat] at hnan
  rw [encode16, narrow_of_143_le hlo hnan, unpack32_sign_eq_ofNat]
  obtain hsign | hsign := signField_eq_zero_or_one v <;> rw [hsign] <;> rfl

theorem encode16_zero (hhi : exponentField v ≤ 103) :
    encode16 v = .enc16 { sign := BitVec.ofNat 1 (signField v), exponent := 0#5, mantissa := 0#10 } .zero
      (if signField v = 1 then 0x8000#16 else 0x0000#16) := by
  rw [← unpack32_exponent_toNat] at hhi
  rw [encode16, narrow_of_le_103 hhi, unpack32_sign_eq_ofNat]
  obtain hsign | hsign := signField_eq_zero_or_one v <;> rw [hsign] <;> rfl

end Responses

/-! ### What the ports show -/

section Shown

variable {v : Word32} (st : State)

theorem exec_enc16_shows_nan (hmax : exponentField v = 255) (hmant : mantissaField v ≠ 0) :
    ∃ t, exec (.enc16 v) st = .next t ∧ t.shows 0 31 1 .nan := by
  refine ⟨_, exec_enc16 st v, ?_⟩
  rw [encode16_nan hmax hmant]
  exact ⟨rfl, rfl, rfl, rfl⟩

theorem exec_enc16_shows_infinite_of_not_nan (hlo : 143 ≤ exponentField v)
    (hnan : ¬ (exponentField v = 255 ∧ mantissaField v ≠ 0)) :
    ∃ t, exec (.enc16 v) st = .next t ∧ t.shows (signField v) 31 0 .infinite := by
  refine ⟨_, exec_enc16 st v, ?_⟩
  rw [encode16_infinite hlo hnan, ← unpack32_sign_eq_ofNat]
  exact ⟨unpack32_sign_toNat v, rfl, rfl, rfl⟩

theorem exec_enc16_shows_zero_of_le_103 (hhi : exponentField v ≤ 103) :
    ∃ t, exec (.enc16 v) st = .next t ∧ t.shows (signField v) 0 0 .zero := by
  refine ⟨_, exec_enc16 st v, ?_⟩
  rw [encode16_zero hhi, ← unpack32_sign_eq_ofNat]
  exact ⟨unpack32_sign_toNat v, rfl, rfl, rfl⟩

/-- There is one state ENC16 can lead to, so what some such state shows, that one shows. -/
theorem encode16_shows {sign exponent mantissa : Nat} {c : Classification}
    (h : ∃ t, exec (.enc16 v) st = .next t ∧ t.shows sign exponent mantissa c) :
    State.shows { inp := st.inp, out := encode16 v } sign exponent mantissa c := by
  obtain ⟨t, hexec, hshows⟩ := h
  obtain rfl := exec_enc16_eq_next_iff.1 hexec
  exact hshows

end Shown

section Ports

variable (v : Word32)

@[simp] theorem encode16_raw_toNat : (encode16 v).raw.toNat = (narrow (unpack32 v)).rawBits.toNat :=
  BitVec.toNat_setWidth_of_le (by decide)

/-- The packed word as the number of the three fields shown (42_narrowing_codec_16bit.md R66). -/
theorem encode16_raw_toNat_eq_fields : (encode16 v).raw.toNat =
    (encode16 v).rs.toNat * 2 ^ 15 + (encode16 v).re.toNat * 2 ^ 10 + (encode16 v).rm.toNat := by
  rw [encode16_raw_toNat, encode16_rs, encode16_re_toNat, encode16_rm_toNat, Triple16.rawBits, pack16_toNat]

end Ports

theorem step_of_op_enc16 {st : State} (hop : st.inp.op = 0b10#2) : step st = exec (.enc16 st.inp.v) st := by
  rw [step, decode_word, hop]
  rfl

/-! ### Infinite and NaN results -/

theorem narrow_mantissa_eq_zero_iff {t : Triple32} (hlo : 143 ≤ t.exponent.toNat) :
    (narrow t).mantissa.toNat = 0 ↔ ¬ (t.exponent.toNat = 255 ∧ t.mantissa.toNat ≠ 0) := by
  by_cases hnan : t.exponent.toNat = 255 ∧ t.mantissa.toNat ≠ 0
  · rw [narrow_nan hnan.1 hnan.2]
    exact iff_of_false (by decide) (not_not_intro hnan)
  · rw [narrow_of_143_le hlo hnan]
    exact iff_of_true rfl hnan

theorem narrow_infinite_iff (t : Triple32) : ((narrow t).exponent.toNat = 31 ∧ (narrow t).mantissa.toNat = 0) ↔
    143 ≤ t.exponent.toNat ∧ (t.exponent.toNat ≠ 255 ∨ t.mantissa.toNat = 0) := by
  rw [narrow_exponent_eq_31_iff]
  refine and_congr_right fun hlo => ?_
  rw [narrow_mantissa_eq_zero_iff hlo]
  omega

theorem narrow_nan_iff (t : Triple32) : ((narrow t).exponent.toNat = 31 ∧ (narrow t).mantissa.toNat ≠ 0) ↔
    t.exponent.toNat = 255 ∧ t.mantissa.toNat ≠ 0 := by
  rw [narrow_exponent_eq_31_iff]
  constructor
  · rintro ⟨hlo, hmant⟩
    exact not_not.1 (mt (narrow_mantissa_eq_zero_iff hlo).2 hmant)
  · intro hnan
    have hlo : 143 ≤ t.exponent.toNat := by omega
    exact ⟨hlo, fun hmant => (narrow_mantissa_eq_zero_iff hlo).1 hmant hnan⟩

/-! ### The sign (42_narrowing_codec_16bit.md R70) -/

theorem pack32_xor_signBit (s : Sign) (e : Exp32) (m : Mant32) :
    pack32 s e m ^^^ 0x80000000#32 = pack32 (s ^^^ 1#1) e m := by
  have fields : (s ++ e ++ m) ^^^ (1#1 ++ 0#8 ++ 0#23) = (s ^^^ 1#1) ++ e ++ m := by
    simp only [BitVec.xor_append, BitVec.xor_zero]
  exact fields

theorem pack16_xor_signBit (s : Sign) (e : Exp16) (m : Mant16) :
    pack16 s e m ^^^ 0x8000#16 = pack16 (s ^^^ 1#1) e m := by
  have fields : (s ++ e ++ m) ^^^ (1#1 ++ 0#5 ++ 0#10) = (s ^^^ 1#1) ++ e ++ m := by
    simp only [BitVec.xor_append, BitVec.xor_zero]
  exact fields

theorem unpack32_xor_signBit (v : Word32) :
    unpack32 (v ^^^ 0x80000000#32) = { unpack32 v with sign := (unpack32 v).sign ^^^ 1#1 } := by
  conv_lhs => rw [← pack32_unpack32 v, pack32_xor_signBit, unpack32_pack32]

/-- Apart from a NaN, which loses its sign, the sign passes through narrowing and meets nothing else. -/
theorem narrow_with_sign {t : Triple32} (hnan : ¬ (t.exponent = 255#8 ∧ t.mantissa ≠ 0#23)) (s : Sign) :
    narrow { t with sign := s } = { narrow t with sign := s } := by
  by_cases h255 : t.exponent = 255#8
  · have hmant : t.mantissa = 0#23 := by
      by_contra hne
      exact hnan ⟨h255, hne⟩
    simp [narrow, h255, hmant]
  · by_cases h0 : t.exponent = 0#8
    · simp [narrow, h0]
    · simp [narrow, h255, h0]

/-- Narrowing the pattern with bit 31 flipped flips the result's sign only. -/
theorem narrow_unpack32_xor_signBit {v : Word32} (hnan : ¬ (exponentField v = 255 ∧ mantissaField v ≠ 0)) :
    narrow (unpack32 (v ^^^ 0x80000000#32)) =
      { narrow (unpack32 v) with sign := (narrow (unpack32 v)).sign ^^^ 1#1 } := by
  have hnan' : ¬ ((unpack32 v).exponent = 255#8 ∧ (unpack32 v).mantissa ≠ 0#23) := by
    rwa [← BitVec.toNat_inj, BitVec.toNat_ne, unpack32_exponent_toNat, unpack32_mantissa_toNat]
  have hsign : narrow (unpack32 v) = { narrow (unpack32 v) with sign := (unpack32 v).sign } :=
    narrow_with_sign hnan' (unpack32 v).sign
  rw [unpack32_xor_signBit, narrow_with_sign hnan', hsign]

/-! ### The statements -/

/-- Settles O29: one row after another, each by what ENC16 shows in that range. -/
theorem enc16MatchesExponentTable : Obligations.Enc16MatchesExponentTable := by
  unfold Obligations.Enc16MatchesExponentTable
  refine ⟨fun v st => ⟨_, exec_enc16 st v, rfl, rfl, rfl, encode16_raw_toNat_eq_fields v, ?_, ?_, ?_, ?_, ?_, ?_, ?_, ?_⟩,
    fun st => step_of_op_enc16⟩
  · intro hmax hmant
    exact encode16_shows st (exec_enc16_shows_nan st hmax hmant)
  · intro hmax hmant
    exact encode16_shows st (exec_enc16_shows_infinite_of_not_nan st (by omega) (by omega))
  · intro hzero _
    exact encode16_shows st (exec_enc16_shows_zero_of_le_103 st (by omega))
  · intro hzero _
    exact encode16_shows st (exec_enc16_shows_zero_of_le_103 st (by omega))
  · intro _ hhi
    exact encode16_shows st (exec_enc16_shows_zero_of_le_103 st hhi)
  · intro hlo hhi
    have hshift : 13 + (113 - exponentField v) = 126 - exponentField v := by omega
    exact hshift ▸ encode16_shows st (exec_enc16_shows_subnormal st hlo hhi)
  · intro hlo hhi
    exact encode16_shows st (exec_enc16_shows_normal st hlo hhi)
  · intro hlo hhi
    exact encode16_shows st (exec_enc16_shows_infinite st hlo hhi)

/-- Settles O30: every NaN narrows to NAN16. -/
theorem nanNarrowsToOneTriple : Obligations.NanNarrowsToOneTriple := by
  unfold Obligations.NanNarrowsToOneTriple
  intro v st hmax hmant
  rw [exec_enc16, encode16_nan hmax hmant, nan16]

/-- Settles O31: the maximal exponent with mantissa 0 is beyond the overflow bound and no NaN. -/
theorem infinityNarrowsToInfinity : Obligations.InfinityNarrowsToInfinity := by
  unfold Obligations.InfinityNarrowsToInfinity
  intro v st hmax hmant
  rw [exec_enc16, encode16_infinite (by omega) (by omega)]

/-- Settles O32: exponent 0 is in the range that flushes. -/
theorem zeroNarrowsToZero : Obligations.ZeroNarrowsToZero := by
  unfold Obligations.ZeroNarrowsToZero
  intro v st hzero _
  rw [exec_enc16, encode16_zero (by omega)]

/-- Settles O33: exponent 0 is in the range that flushes, whatever the mantissa. -/
theorem subnormalInputCollapsesToSignedZero : Obligations.SubnormalInputCollapsesToSignedZero := by
  unfold Obligations.SubnormalInputCollapsesToSignedZero
  intro v st hzero _
  exact exec_enc16_shows_zero_of_le_103 st (by omega)

/-- Settles O39: the label is infinite when the narrowed pair is (31, 0); conflict C1's patterns are evaluated. -/
theorem infiniteResultOnlyFromExponent143 : Obligations.InfiniteResultOnlyFromExponent143 := by
  unfold Obligations.InfiniteResultOnlyFromExponent143
  refine ⟨?_, fun st => ⟨_, exec_enc16 .., rfl, rfl, rfl, rfl⟩, fun st => ⟨_, exec_enc16 .., rfl, rfl, rfl, rfl⟩,
    fun st => ⟨_, exec_enc16 .., rfl, rfl, rfl, rfl⟩⟩
  intro v st t hexec
  obtain rfl := exec_enc16_eq_next_iff.1 hexec
  rw [encode16_cls_eq_wires_iff, ← unpack32_exponent_toNat, ← unpack32_mantissa_toNat]
  exact narrow_infinite_iff _

/-- Settles O40: the label is NaN when the narrowed pair has exponent 31 and a mantissa, which only a NaN gives. -/
theorem nanResultExactlyFromNan : Obligations.NanResultExactlyFromNan := by
  unfold Obligations.NanResultExactlyFromNan
  intro v st t hexec
  obtain rfl := exec_enc16_eq_next_iff.1 hexec
  have hnan := narrow_nan_iff (unpack32 v)
  rw [unpack32_exponent_toNat, unpack32_mantissa_toNat] at hnan
  constructor
  · rw [encode16_cls_eq_wires_iff]
    exact hnan
  · intro hre hrm
    have hexp : (narrow (unpack32 v)).exponent.toNat = 31 := by rw [← encode16_re_toNat, hre]; rfl
    have hmant : (narrow (unpack32 v)).mantissa.toNat ≠ 0 := by
      rw [← encode16_rm_toNat]
      exact BitVec.toNat_ne.1 hrm
    obtain ⟨hmax, hfield⟩ := hnan.1 ⟨hexp, hmant⟩
    rw [encode16_nan hmax hfield]
    rfl

/-- Settles O41: the ports carry the five-bit exponent and the ten-bit mantissa, which CLASSIFY.16 takes back. -/
theorem narrowedTripleClassifiesTheSame : Obligations.NarrowedTripleClassifiesTheSame := by
  unfold Obligations.NarrowedTripleClassifiesTheSame
  intro v st
  have hrange : (encode16 v).re.toNat ≤ 31 ∧ (encode16 v).rm.toNat ≤ 0x3FF := by
    rw [encode16_re_toNat, encode16_rm_toNat]
    exact ⟨Nat.le_of_lt_succ (narrow (unpack32 v)).exponent.isLt, Nat.le_of_lt_succ (narrow (unpack32 v)).mantissa.isLt⟩
  have hre : (encode16 v).re.setWidth 5 = (narrow (unpack32 v)).exponent := BitVec.setWidth_setWidth_of_le _ (by decide)
  have hrm : (encode16 v).rm.setWidth 10 = (narrow (unpack32 v)).mantissa := BitVec.setWidth_setWidth_of_le _ (by decide)
  refine ⟨_, _, exec_enc16 st v, exec_classify16_of_inRange _ hrange, rfl, ?_⟩
  rw [hre, hrm]
  rfl

/-- Settles O42: the flip goes through `unpack32`, `narrow` and `pack16` to the sign alone. -/
theorem flippingSignFlipsOnlyResultSign : Obligations.FlippingSignFlipsOnlyResultSign := by
  unfold Obligations.FlippingSignFlipsOnlyResultSign
  intro v st hnan
  have hflip := narrow_unpack32_xor_signBit hnan
  refine ⟨_, _, exec_enc16 st v, exec_enc16 st _, ?_⟩
  simp only [encode16, hflip]
  refine ⟨rfl, ?_, rfl, rfl, rfl, rfl, rfl⟩
  simp only [Response.raw, Triple16.rawBits, ← pack16_xor_signBit, BitVec.setWidth_xor]
  rfl

end Sys2Proof.Machine
end

section
/-! PROOFS. Narrowing as arithmetic (43_rounding_unit.md R78): the numbers the patterns stand for (40_field_codec_32bit.md
R51), rounding toward zero, and the order of the packed words. -/

namespace Sys2Proof.Machine

/-! ### The next packed word -/

section Next

variable (s : Sign) {e : Exp16} {m : Mant16}

theorem pack16_add_one_of_mantissa_lt (hm : m.toNat < 0x3FF) : pack16 s e m + 1#16 = pack16 s e (m + 1#10) := by
  apply BitVec.eq_of_toNat_eq
  simp only [BitVec.toNat_add, BitVec.toNat_ofNat, pack16_toNat]
  omega

/-- Past the largest mantissa the carry goes into the exponent. -/
theorem pack16_add_one_of_mantissa_max (he : e.toNat < 31) (hm : m.toNat = 0x3FF) :
    pack16 s e m + 1#16 = pack16 s (e + 1#5) 0#10 := by
  apply BitVec.eq_of_toNat_eq
  simp only [BitVec.toNat_add, BitVec.toNat_ofNat, pack16_toNat]
  omega

end Next

/-- The next packed word stands for one unit in the last place more, also across the end of a binade. -/
theorem units16_unpack16_rawBits_add_one {t : Triple16} (he : t.exponent.toNat < 31) :
    units16 (unpack16 (t.rawBits + 1#16)) = units16 t + 2 ^ (max t.exponent.toNat 1 + 124) := by
  have hwidth := t.mantissa.isLt
  rw [Triple16.rawBits]
  by_cases hm : t.mantissa.toNat = 0x3FF
  · have hcarry : (t.exponent + 1#5).toNat = t.exponent.toNat + 1 := BitVec.toNat_add_of_lt (Nat.add_lt_add_right he 1)
    rw [pack16_add_one_of_mantissa_max _ he hm, unpack16_pack16]
    simp only [units16, hcarry, hm, BitVec.toNat_ofNat, if_neg (Nat.succ_ne_zero _)]
    split_ifs with hzero
    · rw [hzero]
      norm_num
    · rw [max_eq_left (Nat.one_le_iff_ne_zero.2 hzero)]
      ring
  · have hlt : t.mantissa.toNat < 0x3FF := by omega
    have hnext : (t.mantissa + 1#10).toNat = t.mantissa.toNat + 1 := BitVec.toNat_add_of_lt (Nat.add_lt_add_right hlt 1)
    rw [pack16_add_one_of_mantissa_lt _ hlt, unpack16_pack16]
    simp only [units16, hnext]
    split_ifs with hzero
    · rw [hzero]
      exact Nat.succ_mul _ _
    · rw [max_eq_left (Nat.one_le_iff_ne_zero.2 hzero)]
      ring

/-! ### Truncation -/

/-- How many low bits of the 24-bit significand a finite non-zero result drops (R75, R77). -/
def droppedBits (exp32 : Nat) : Nat := if exp32 ≤ 112 then 126 - exp32 else 13

section Truncation

variable {t : Triple32}

theorem units32_of_pos (h : 1 ≤ t.exponent.toNat) :
    units32 t = (2 ^ 23 + t.mantissa.toNat) * 2 ^ (t.exponent.toNat - 1) :=
  if_neg (Nat.one_le_iff_ne_zero.1 h)

theorem units16_of_exponent_zero (s : Sign) (m : Mant16) :
    units16 { sign := s, exponent := 0#5, mantissa := m } = m.toNat * 2 ^ 125 := if_pos rfl

theorem units16_of_le_103 (h : t.exponent.toNat ≤ 103) : units16 (narrow t) = 0 := by
  rw [narrow_of_le_103 h, units16_of_exponent_zero]
  exact Nat.zero_mul _

section Finite

variable (hlo : 104 ≤ t.exponent.toNat) (hhi : t.exponent.toNat ≤ 142)
include hlo hhi

/-- The exponent of one unit in the last place of the result, in units of 2^−149. -/
theorem max_narrow_exponent_add :
    max (narrow t).exponent.toNat 1 + 124 = droppedBits t.exponent.toNat + (t.exponent.toNat - 1) := by
  obtain hsub | hnorm := le_or_gt t.exponent.toNat 112
  · rw [narrow_of_104_le_of_le_112 hlo hsub, droppedBits, if_pos hsub, BitVec.toNat_ofNat]
    omega
  · rw [narrow_of_113_le_of_le_142 hnorm hhi, droppedBits, if_neg (by omega), rebiased_toNat hhi]
    omega

/-- The result's magnitude is the significand without its dropped bits, at the input's scale. -/
theorem units16_narrow : units16 (narrow t) = (2 ^ 23 + t.mantissa.toNat) / 2 ^ droppedBits t.exponent.toNat *
    2 ^ (droppedBits t.exponent.toNat + (t.exponent.toNat - 1)) := by
  rw [← max_narrow_exponent_add hlo hhi]
  obtain hsub | hnorm := le_or_gt t.exponent.toNat 112
  · have hshift : 13 + (113 - t.exponent.toNat) = 126 - t.exponent.toNat := by omega
    rw [narrow_of_104_le_of_le_112 hlo hsub, droppedBits, if_pos hsub, units16_of_exponent_zero,
      subnormalMantissa_toNat _ _ (by omega), hshift]
    rfl
  · have hquot : (2 ^ 23 + t.mantissa.toNat) / 2 ^ 13 = 2 ^ 10 + t.mantissa.toNat / 2 ^ 13 := by omega
    rw [narrow_of_113_le_of_le_142 hnorm hhi, droppedBits, if_neg (by omega), units16, rebiased_toNat hhi,
      if_neg (by omega), normalMantissa_toNat, hquot, max_eq_left (by omega)]

theorem units16_narrow_le_units32 : units16 (narrow t) ≤ units32 t := by
  rw [units16_narrow hlo hhi, units32_of_pos (by omega), Nat.pow_add, ← Nat.mul_assoc]
  exact Nat.mul_le_mul_right _ (Nat.div_mul_le_self _ _)

/-- The dropped bits are worth less than one unit in the last place. -/
theorem units32_lt_units16_narrow_add :
    units32 t < units16 (narrow t) + 2 ^ (max (narrow t).exponent.toNat 1 + 124) := by
  rw [max_narrow_exponent_add hlo hhi, units16_narrow hlo hhi, units32_of_pos (by omega), ← Nat.succ_mul, Nat.pow_add,
    ← Nat.mul_assoc]
  exact Nat.mul_lt_mul_of_pos_right (Nat.lt_mul_of_div_lt (Nat.lt_succ_self _) (Nat.two_pow_pos _))
    (Nat.two_pow_pos _)

end Finite

end Truncation

/-! ### The packed word's order -/

/-- The packed result without its sign, as a number of the exponent and mantissa fields (R69's rows in one word). -/
def packedMagnitude (exponent mantissa : Nat) : Nat :=
  if exponent ≤ 103 then 0
  else if exponent ≤ 112 then (2 ^ 23 + mantissa) / 2 ^ (126 - exponent)
  else if exponent ≤ 142 then (exponent - 112) * 2 ^ 10 + mantissa / 2 ^ 13
  else 31 * 2 ^ 10

theorem rawBits_narrow_toNat {t : Triple32} (hnan : ¬ (t.exponent.toNat = 255 ∧ t.mantissa.toNat ≠ 0)) :
    (narrow t).rawBits.toNat = t.sign.toNat * 2 ^ 15 + packedMagnitude t.exponent.toNat t.mantissa.toNat := by
  rw [Triple16.rawBits, packedMagnitude]
  split_ifs with hflush hsub hnorm
  · simp [narrow_of_le_103 hflush, pack16_toNat]
  · have hshift : 13 + (113 - t.exponent.toNat) = 126 - t.exponent.toNat := by omega
    rw [narrow_of_104_le_of_le_112 (by omega) hsub, pack16_toNat, subnormalMantissa_toNat _ _ (by omega), hshift]
    simp
  · rw [narrow_of_113_le_of_le_142 (by omega) hnorm, pack16_toNat, rebiased_toNat hnorm, normalMantissa_toNat,
      Nat.add_assoc]
  · simp [narrow_of_143_le (by omega) hnan, pack16_toNat]

/-- Within one exponent the packed magnitude grows with the mantissa. -/
theorem packedMagnitude_mantissa_mono (e : Nat) {m m' : Nat} (h : m ≤ m') :
    packedMagnitude e m ≤ packedMagnitude e m' := by
  unfold packedMagnitude
  split_ifs
  · exact le_rfl
  · exact Nat.div_le_div_right (Nat.add_le_add_left h _)
  · exact Nat.add_le_add_left (Nat.div_le_div_right h) _
  · exact le_rfl

/-- No mantissa takes an exponent's packed magnitude past the start of the next exponent. -/
theorem packedMagnitude_le_succ (e : Nat) {m : Nat} (hm : m < 2 ^ 23) :
    packedMagnitude e m ≤ packedMagnitude (e + 1) 0 := by
  obtain hflush | ⟨hlo, hhi⟩ | hlast | hnorm : e ≤ 103 ∨ (104 ≤ e ∧ e ≤ 111) ∨ e = 112 ∨ 113 ≤ e := by omega
  · rw [packedMagnitude, if_pos hflush]
    exact Nat.zero_le _
  · have hhalf : (2 ^ 23 + m) / 2 ^ (126 - e) = (2 ^ 23 + m) / 2 / 2 ^ (126 - (e + 1)) := by
      rw [Nat.div_div_eq_div_mul, ← Nat.pow_succ', show (126 - (e + 1)).succ = 126 - e by omega]
    rw [packedMagnitude, if_neg (by omega), if_pos (by omega), packedMagnitude, if_neg (by omega), if_pos (by omega),
      hhalf]
    exact Nat.div_le_div_right (by omega)
  · rw [hlast, packedMagnitude, if_neg (by decide), if_pos (by decide), packedMagnitude, if_neg (by decide),
      if_neg (by decide), if_pos (by decide)]
    omega
  · unfold packedMagnitude
    split_ifs <;> omega

/-- Over the fields in order of the pattern, exponent before mantissa, the packed magnitude is monotonic. -/
theorem packedMagnitude_mono {e e' m m' : Nat} (hm : m < 2 ^ 23) (hm' : m' < 2 ^ 23)
    (h : e * 2 ^ 23 + m ≤ e' * 2 ^ 23 + m') : packedMagnitude e m ≤ packedMagnitude e' m' := by
  have starts_mono : Monotone (packedMagnitude · 0) :=
    monotone_nat_of_le_succ fun n => packedMagnitude_le_succ n (by decide)
  obtain rfl | hlt : e = e' ∨ e < e' := by omega
  · exact packedMagnitude_mantissa_mono e (by omega)
  · calc packedMagnitude e m
      _ ≤ packedMagnitude (e + 1) 0 := packedMagnitude_le_succ e hm
      _ ≤ packedMagnitude e' 0 := starts_mono hlt
      _ ≤ packedMagnitude e' m' := packedMagnitude_mantissa_mono e' (Nat.zero_le _)

theorem mantissaField_lt (v : Word32) : mantissaField v < 2 ^ 23 := Nat.mod_lt _ (by decide)

section NonNegative

variable {v : Word32} (h : v.toNat ≤ 0x7F800000)
include h

theorem fields_of_nonNegative : signField v = 0 ∧ exponentField v * 2 ^ 23 + mantissaField v = v.toNat := by
  simp only [signField, exponentField, mantissaField]
  omega

theorem not_nan_of_nonNegative : ¬ (exponentField v = 255 ∧ mantissaField v ≠ 0) := by
  simp only [exponentField, mantissaField]
  omega

/-- ENC16's packed word on a non-negative pattern that is no NaN. -/
theorem encode16_raw_toNat_of_nonNegative :
    (encode16 v).raw.toNat = packedMagnitude (exponentField v) (mantissaField v) := by
  have hraw := rawBits_narrow_toNat (t := unpack32 v)
  rw [unpack32_sign_toNat, unpack32_exponent_toNat, unpack32_mantissa_toNat, (fields_of_nonNegative h).1,
    Nat.zero_mul, Nat.zero_add] at hraw
  rw [encode16_raw_toNat, hraw (not_nan_of_nonNegative h)]

end NonNegative

/-! ### The statements -/

/-- Settles O43: below exponent 104 the result is 0, up to 142 it is the truncated significand, and above it is not
finite. -/
theorem narrowingNeverIncreasesMagnitude : Obligations.NarrowingNeverIncreasesMagnitude := by
  unfold Obligations.NarrowingNeverIncreasesMagnitude
  intro v _ hfinite
  have hexp : ¬ 143 ≤ (unpack32 v).exponent.toNat := by
    rw [← narrow_exponent_eq_31_iff]
    exact BitVec.toNat_ne.1 hfinite
  obtain hflush | hlo := le_or_gt (unpack32 v).exponent.toNat 103
  · rw [units16_of_le_103 hflush]
    exact Nat.zero_le _
  · exact units16_narrow_le_units32 hlo (by omega)

/-- Settles O44: the next word stands for one unit in the last place more, and the dropped bits are worth less. -/
theorem narrowingRoundsTowardZero : Obligations.NarrowingRoundsTowardZero := by
  unfold Obligations.NarrowingRoundsTowardZero
  intro v hlo hhi
  have hfinite := narrow_exponent_eq_31_iff (unpack32 v)
  have hwidth := (narrow (unpack32 v)).exponent.isLt
  rw [unpack32_exponent_toNat] at hfinite
  rw [units16_unpack16_rawBits_add_one (by omega)]
  rw [← unpack32_exponent_toNat] at hlo hhi
  exact ⟨units16_narrow_le_units32 hlo hhi, units32_lt_units16_narrow_add hlo hhi⟩

/-- Settles O45: the packed word is `packedMagnitude` of the fields, which are the pattern's digits. -/
theorem narrowingIsMonotonic : Obligations.NarrowingIsMonotonic := by
  unfold Obligations.NarrowingIsMonotonic
  intro v w st t u hle hw hexecv hexecw
  obtain rfl := exec_enc16_eq_next_iff.1 hexecv
  obtain rfl := exec_enc16_eq_next_iff.1 hexecw
  rw [encode16_raw_toNat_of_nonNegative (hle.trans hw), encode16_raw_toNat_of_nonNegative hw]
  apply packedMagnitude_mono (mantissaField_lt v) (mantissaField_lt w)
  rwa [(fields_of_nonNegative (hle.trans hw)).2, (fields_of_nonNegative hw).2]

end Sys2Proof.Machine
end

section
/-! PROOFS. The output ports: what stays 0 (30_encoding.md R36, R38), the responses of CLASSIFY (41_classifier.md R55, R56),
the fault (60_exceptions.md R82 to R84), and what RSP tells apart (30_encoding.md R35). -/

namespace Sys2Proof.Machine

/-! ### Zero fill -/

/-- Widening leaves the bits above the old width 0. -/
theorem extractLsb'_setWidth_eq_zero {w : Nat} (x : BitVec w) (n k : Nat) :
    (x.setWidth (w + n)).extractLsb' w k = 0#k := by
  apply BitVec.eq_of_toNat_eq
  rw [BitVec.extractLsb'_toNat, BitVec.toNat_setWidth_of_le (Nat.le_add_right w n), Nat.shiftRight_eq_div_pow,
    Nat.div_eq_of_lt x.isLt, Nat.zero_mod, BitVec.toNat_zero]

/-! ### CLASSIFY -/

theorem step_of_op_classify32 {st : State} (hop : st.inp.op = 0b11#2) (hfmt : st.inp.fmt = 0#1) :
    step st = exec (.classify32 st.inp.e st.inp.m) st := by
  rw [step, decode_word_classify32 hop hfmt]

theorem step_of_op_classify16 {st : State} (hop : st.inp.op = 0b11#2) (hfmt : st.inp.fmt = 1#1) :
    step st = exec (.classify16 st.inp.e st.inp.m) st := by
  rw [step, decode_word_classify16 hop hfmt]

/-- In range, CLASSIFY.16's narrower fields are the port's values, so its label is that of the operands. -/
theorem labelCondition_classify16 {e : Exp32} {m : Mant32} (he : e.toNat ≤ 31) (hm : m.toNat ≤ 0x3FF) :
    labelCondition 31 e.toNat m.toNat (classify (e.setWidth 5 : Exp16) (m.setWidth 10 : Mant16)) := by
  have hlabel := labelCondition_classify (e.setWidth 5) (m.setWidth 10)
  rwa [BitVec.toNat_setWidth, BitVec.toNat_setWidth, Nat.mod_eq_of_lt (by omega), Nat.mod_eq_of_lt (by omega)] at hlabel

/-! ### The fault -/

theorem response_err_eq_one_iff (r : Response) : r.err = 1#1 ↔ r = .fault .invalidFieldRange := by
  cases r with
  | fault f =>
    cases f
    exact iff_of_true rfl rfl
  | enc32 t cls raw => exact iff_of_false (by simp [Response.err]) (by simp)
  | dec32 raw sym => exact iff_of_false (by simp [Response.err]) (by simp)
  | enc16 t cls raw16 => exact iff_of_false (by simp [Response.err]) (by simp)
  | classify cls => exact iff_of_false (by simp [Response.err]) (by simp)

/-- A response is a result exactly when `err` is down (60_exceptions.md R83). -/
theorem response_isResult_iff (r : Response) : r.isResult = true ↔ r ≠ .fault .invalidFieldRange := by
  cases r with
  | fault f =>
    cases f
    exact iff_of_false Bool.false_ne_true (not_not_intro rfl)
  | enc32 t cls raw => exact iff_of_true rfl (by simp)
  | dec32 raw sym => exact iff_of_true rfl (by simp)
  | enc16 t cls raw16 => exact iff_of_true rfl (by simp)
  | classify cls => exact iff_of_true rfl (by simp)

/-- An operation is answered by a result exactly when its operands are in its declared domain (60_exceptions.md R82). -/
theorem responseOf_isResult (i : Instr) : (responseOf i).isResult = i.wellFormed := by
  cases i with
  | enc32 v => rfl
  | dec32 s e m => rfl
  | enc16 v => rfl
  | classify32 e m => rfl
  | classify16 e m =>
    rw [responseOf, Instr.wellFormed, ← Bool.decide_and]
    split_ifs with h
    · exact (decide_eq_true h).symm
    · exact (decide_eq_false h).symm

theorem wellFormed_classify16_iff (e : Exp32) (m : Mant32) :
    (Instr.classify16 e m).wellFormed = true ↔ e.toNat ≤ 31 ∧ m.toNat ≤ 0x3FF := by
  rw [Instr.wellFormed, Bool.and_eq_true, decide_eq_true_iff, decide_eq_true_iff]

/-- The requests whose operation has a declared domain they miss: CLASSIFY with `fmt = 1` and a field out of range. -/
theorem wellFormed_decode_word_eq_false_iff (q : Request) : (decode q.word).wellFormed = false ↔
    q.op = 0b11#2 ∧ q.fmt = 1#1 ∧ (q.e.toNat > 31 ∨ q.m.toNat > 0x3FF) := by
  by_cases hclassify16 : q.op = 0b11#2 ∧ q.fmt = 1#1
  · obtain ⟨hop, hfmt⟩ := hclassify16
    rw [decode_word_classify16 hop hfmt, ← Bool.not_eq_true, wellFormed_classify16_iff]
    simp only [hop, hfmt, true_and]
    omega
  · refine iff_of_false ?_ (fun ⟨hop, hfmt, _⟩ => hclassify16 ⟨hop, hfmt⟩)
    rw [decode_word]
    split_ifs with h0 h1 h2 hfmt
    · exact Bool.false_ne_true.symm
    · exact Bool.false_ne_true.symm
    · exact Bool.false_ne_true.symm
    · exact Bool.false_ne_true.symm
    · exact absurd ⟨op_eq_three h0 h1 h2, fmt_eq_one hfmt⟩ hclassify16

/-! ### What RSP tells apart -/

section ResponseOfOp

variable {q : Request}

theorem response_of_op_enc32 (hop : q.op = 0b00#2) : q.response = encode32 q.v := by
  rw [Request.response, decode_word, hop]
  rfl

theorem response_of_op_dec32 (hop : q.op = 0b01#2) : q.response = decode32 q.s q.e q.m := by
  rw [Request.response, decode_word, hop]
  rfl

theorem response_of_op_enc16 (hop : q.op = 0b10#2) : q.response = encode16 q.v := by
  rw [Request.response, decode_word, hop]
  rfl

theorem response_of_op_classify (hop : q.op = 0b11#2) :
    q.response = .fault .invalidFieldRange ∨ ∃ c, q.response = .classify c := by
  obtain hfmt | hfmt := BitVec.eq_zero_or_eq_one q.fmt
  · rw [Request.response, decode_word_classify32 hop hfmt]
    exact .inr ⟨_, rfl⟩
  · rw [Request.response, decode_word_classify16 hop hfmt, responseOf]
    split_ifs
    · exact .inr ⟨_, rfl⟩
    · exact .inl rfl

end ResponseOfOp

theorem decode32_eq_of_raw_eq {s s' : Sign} {e e' : Exp32} {m m' : Mant32}
    (hraw : (decode32 s e m).raw = (decode32 s' e' m').raw) : decode32 s e m = decode32 s' e' m' := by
  have htriple := congrArg unpack32 hraw
  rw [decode32_raw, decode32_raw, unpack32_pack32, unpack32_pack32, Triple32.mk.injEq] at htriple
  obtain ⟨rfl, rfl, rfl⟩ := htriple
  rfl

/-- The narrowed triple is on the ports whole, and the rest of ENC16's response is a function of it. -/
theorem encode16_eq_of_triple_ports_eq {v v' : Word32} (hrs : (encode16 v).rs = (encode16 v').rs)
    (hre : (encode16 v).re = (encode16 v').re) (hrm : (encode16 v).rm = (encode16 v').rm) :
    encode16 v = encode16 v' := by
  have hexp : (narrow (unpack32 v)).exponent = (narrow (unpack32 v')).exponent := by
    rw [← BitVec.toNat_inj, ← encode16_re_toNat, ← encode16_re_toNat, hre]
  have hmant : (narrow (unpack32 v)).mantissa = (narrow (unpack32 v')).mantissa := by
    rw [← BitVec.toNat_inj, ← encode16_rm_toNat, ← encode16_rm_toNat, hrm]
  have hnarrow : narrow (unpack32 v) = narrow (unpack32 v') := by
    rw [Triple16.mk.injEq]
    exact ⟨hrs, hexp, hmant⟩
  rw [encode16, encode16, hnarrow]

/-- Under one operation code the output ports determine the response: ENC32 and DEC32 by `raw`, ENC16 by its triple,
CLASSIFY by `err` and the one-hot `cls`. -/
theorem response_eq_of_word_eq {q q' : Request} (hop : q.op = q'.op) (hword : q.response.word = q'.response.word) :
    q.response = q'.response := by
  obtain ⟨herr, -, hcls, hrs, hre, hrm, hraw⟩ := ports_eq_of_word_eq hword
  by_cases h0 : q'.op = 0b00#2
  · rw [response_of_op_enc32 (hop.trans h0), response_of_op_enc32 h0] at hraw ⊢
    exact congrArg encode32 hraw
  by_cases h1 : q'.op = 0b01#2
  · rw [response_of_op_dec32 (hop.trans h1), response_of_op_dec32 h1] at hraw ⊢
    exact decode32_eq_of_raw_eq hraw
  by_cases h2 : q'.op = 0b10#2
  · rw [response_of_op_enc16 (hop.trans h2), response_of_op_enc16 h2] at hrs hre hrm ⊢
    exact encode16_eq_of_triple_ports_eq hrs hre hrm
  have h3 := op_eq_three h0 h1 h2
  obtain hfault' | ⟨c', hc'⟩ := response_of_op_classify h3
  · rw [hfault']
    exact (response_err_eq_one_iff _).1 (by rw [herr, hfault']; rfl)
  · obtain hfault | ⟨c, hc⟩ := response_of_op_classify (hop.trans h3)
    · rw [hfault, hc'] at herr
      exact absurd herr.symm (by simp [Response.err])
    · rw [hc, hc'] at hcls ⊢
      exact congrArg Response.classify (wires_injective hcls)

/-! ### The statements -/

/-- Settles O9: each operation's response by its constructor; ENC16's three wide ports by `extractLsb'_setWidth_eq_zero`. -/
theorem unwrittenOutputsAreZero : Obligations.UnwrittenOutputsAreZero := by
  unfold Obligations.UnwrittenOutputsAreZero
  simp only [exec_eq_next_responseOf, Host.Outcome.next.injEq]
  refine ⟨?_, ?_, ?_, ?_, ?_, ?_⟩
  · rintro i st _ rfl
    rfl
  · rintro v st _ rfl
    exact ⟨rfl, rfl⟩
  · rintro s e m st _ rfl
    exact ⟨rfl, rfl, rfl, rfl, rfl⟩
  · rintro v st _ rfl
    exact ⟨extractLsb'_setWidth_eq_zero (narrow (unpack32 v)).exponent 3 3,
      extractLsb'_setWidth_eq_zero (narrow (unpack32 v)).mantissa 13 13,
      extractLsb'_setWidth_eq_zero (narrow (unpack32 v)).rawBits 16 16, rfl, rfl⟩
  · rintro e m st _ rfl
    exact ⟨rfl, rfl, rfl, rfl, rfl, rfl⟩
  · rintro e m st _ rfl
    rw [responseOf]
    split_ifs with hrange
    · exact ⟨rfl, rfl, rfl, rfl, rfl, fun _ => rfl, fun hout => absurd hrange (by omega)⟩
    · exact ⟨rfl, rfl, rfl, rfl, rfl, fun hin => absurd hin hrange, fun _ => ⟨rfl, rfl⟩⟩

/-- Settles O24: DEC32 and the fault leave `cls` 0, and a label's wires are never 0. -/
theorem clsZeroOnlyWithoutClassification : Obligations.ClsZeroOnlyWithoutClassification := by
  unfold Obligations.ClsZeroOnlyWithoutClassification
  intro st t hstep
  obtain rfl := step_eq_next_iff.1 hstep
  obtain ⟨hdec, hcls⟩ | ⟨hfault, hcls⟩ | ⟨hop, herr, c, hcls⟩ := response_cls_cases st.inp
  · exact ⟨iff_of_true hcls (.inl hdec), fun hne => absurd hcls hne⟩
  · exact ⟨iff_of_true hcls (.inr hfault), fun hne => absurd hcls hne⟩
  · have hne : c.wires ≠ 0#5 := by cases c <;> decide
    rw [hcls, herr]
    exact ⟨iff_of_false hne (by simpa using hop), fun _ => ⟨c, ofWires_wires c, rfl⟩⟩

/-- Settles O25: the label by `labelCondition_classify`, for CLASSIFY.16 on the fields cut to its format. -/
theorem classifyResponse : Obligations.ClassifyResponse := by
  unfold Obligations.ClassifyResponse
  refine ⟨?_, ?_, ?_, ?_, ?_, ?_⟩
  · intro e m st
    exact ⟨_, labelCondition_classify e m, exec_classify32 st e m⟩
  · intro e m st he hm
    exact ⟨_, labelCondition_classify16 he hm, exec_classify16_of_inRange st ⟨he, hm⟩⟩
  · intro e m st hout
    exact exec_classify16_of_outOfRange st (by omega)
  · intro c
    exact ⟨rfl, rfl, rfl, rfl, rfl, rfl, rfl⟩
  · exact fun st => step_of_op_classify32
  · exact fun st => step_of_op_classify16

/-- Settles O26: only the fault raises `err`, and it drives every other port to 0. -/
theorem faultResponseOnTheWires : Obligations.FaultResponseOnTheWires := by
  unfold Obligations.FaultResponseOnTheWires
  refine ⟨rfl, response_err_eq_one_iff, ?_⟩
  intro r herr
  rw [(response_err_eq_one_iff r).1 herr]
  exact ⟨rfl, rfl, rfl, rfl, rfl, rfl⟩

/-- Settles O27: `err` is up when the response is no result, which is when the operation's domain is missed. -/
theorem onlyClassify16CanFault : Obligations.OnlyClassify16CanFault := by
  unfold Obligations.OnlyClassify16CanFault
  intro st
  refine ⟨_, step_eq_next_response st, ?_⟩
  rw [response_err_eq_one_iff, ← wellFormed_decode_word_eq_false_iff, ← responseOf_isResult, ← Bool.not_eq_true,
    response_isResult_iff, not_not, Request.response]

/-- Settles O12: a step shows the response to the request on the ports, which `op` and RSP determine. -/
theorem responseWordDeterminesResponse : Obligations.ResponseWordDeterminesResponse := by
  unfold Obligations.ResponseWordDeterminesResponse
  intro st st' t t' hstep hstep' hop hword
  obtain rfl := step_eq_next_iff.1 hstep
  obtain rfl := step_eq_next_iff.1 hstep'
  exact response_eq_of_word_eq hop hword

end Sys2Proof.Machine
end

section
/-! PROOFS. The host side: programs of fixed requests (60_exceptions.md R87), and calls on naturals against the requests
they stand for (30_encoding.md R40, R41; 40_field_codec_32bit.md R46; 60_exceptions.md R82, R88). -/

namespace Sys2Proof.Machine

/-! ### Programs -/

theorem faultMark_eq_false_iff (rs : List Response) : faultMark rs = false ↔ ∀ r ∈ rs, r.isResult = true := by
  simp [faultMark]

/-- A run of fixed requests always completes, so its safety is that of its responses. -/
theorem safeRun_ofRequests_iff (qs : List Request) (st : State) :
    SafeRun (Program.ofRequests qs) st ↔ ∀ q ∈ qs, q.response.isResult = true := by
  rw [SafeRun, Program.run_ofRequests, List.nil_append]
  constructor
  · rintro ⟨rs, hrun, hmark⟩
    rw [Option.some.injEq] at hrun
    subst hrun
    exact List.forall_mem_map.1 ((faultMark_eq_false_iff _).1 hmark)
  · intro hsafe
    exact ⟨_, rfl, (faultMark_eq_false_iff _).2 (List.forall_mem_map.2 hsafe)⟩

/-! ### Issuing a request -/

theorem issue_eq (i : Instr) (st : State) :
    issue i st = .next { inp := Request.ofInstr i, out := responseOf i } := by
  rw [issue, step_eq_next_response, present_inp, response_ofInstr]

/-- How the host reads a response: a result is passed on, the fault is raised. -/
theorem raiseFaultResponse_next (t : State) : raiseFaultResponse (.next t) =
    if t.out.isResult then .next t else .fault .invalidFieldRange := rfl

/-- A natural that fits a port is the number of the bits driven on it. -/
theorem ofNat_toNat_of_le {w n : Nat} (h : n ≤ 2 ^ w - 1) : (BitVec.ofNat w n).toNat = n := by
  have := Nat.two_pow_pos w
  rw [BitVec.toNat_ofNat, Nat.mod_eq_of_lt (by omega)]

theorem ofNat_eq_ofNat_iff {w n k : Nat} (hn : n ≤ 2 ^ w - 1) (hk : k ≤ 2 ^ w - 1) :
    BitVec.ofNat w n = BitVec.ofNat w k ↔ n = k := by
  rw [← BitVec.toNat_inj, ofNat_toNat_of_le hn, ofNat_toNat_of_le hk]

/-! ### When a call fits -/

section Fits

variable (sign exponent mantissa expWidth : Nat)

theorem fitsPorts_decode32_iff : (Call.decode32 sign exponent mantissa).fitsPorts = true ↔
    sign ≤ 1 ∧ exponent ≤ 255 ∧ mantissa ≤ 0x7FFFFF := by
  simp only [Call.fitsPorts, Bool.and_eq_true, decide_eq_true_iff, and_assoc]

theorem fitsPorts_enc16F_iff : (Call.enc16F sign exponent mantissa).fitsPorts = true ↔
    sign ≤ 1 ∧ exponent ≤ 255 ∧ mantissa ≤ 0x7FFFFF := fitsPorts_decode32_iff sign exponent mantissa

theorem fitsPorts_classify_iff : (Call.classify exponent mantissa expWidth).fitsPorts = true ↔
    exponent ≤ 255 ∧ mantissa ≤ 0x7FFFFF := by
  simp only [Call.fitsPorts, Bool.and_eq_true, decide_eq_true_iff]

theorem widthSupported_classify_iff : (Call.classify exponent mantissa expWidth).widthSupported = true ↔
    expWidth = 8 ∨ expWidth = 5 := by
  simp only [Call.widthSupported, Bool.or_eq_true, decide_eq_true_iff]

end Fits

/-! ### The calls, on operands that fit and on others -/

section Calls

variable (st : State)

theorem encode32Host_of_fits {v : Nat} (hv : v ≤ 0xFFFFFFFF) :
    encode32Host v st = issue (.enc32 (BitVec.ofNat 32 v)) st := if_neg (Nat.not_lt.2 hv)

theorem encode16Host_of_fits {v : Nat} (hv : v ≤ 0xFFFFFFFF) :
    encode16Host v st = issue (.enc16 (BitVec.ofNat 32 v)) st := if_neg (Nat.not_lt.2 hv)

variable {sign exponent mantissa : Nat}

theorem decode32Host_of_fits (hs : sign ≤ 1) (he : exponent ≤ 255) (hm : mantissa ≤ 0x7FFFFF) :
    decode32Host sign exponent mantissa st =
      issue (.dec32 (BitVec.ofNat 1 sign) (BitVec.ofNat 8 exponent) (BitVec.ofNat 23 mantissa)) st :=
  if_neg (by omega)

theorem decode32Host_of_not_fits (hout : sign > 1 ∨ exponent > 255 ∨ mantissa > 0x7FFFFF) :
    decode32Host sign exponent mantissa st = .fault .invalidFieldRange := if_pos hout

theorem enc16FHost_of_fits (hs : sign ≤ 1) (he : exponent ≤ 255) (hm : mantissa ≤ 0x7FFFFF) :
    ∃ t, enc16FHost sign exponent mantissa st =
      issue (.enc16 (pack32 (BitVec.ofNat 1 sign) (BitVec.ofNat 8 exponent) (BitVec.ofNat 23 mantissa))) t := by
  rw [enc16FHost, decode32Host_of_fits st hs he hm, issue_eq]
  exact ⟨_, rfl⟩

theorem classifyHost_8_of_fits (he : exponent ≤ 255) (hm : mantissa ≤ 0x7FFFFF) :
    classifyHost exponent mantissa 8 st =
      issue (.classify32 (BitVec.ofNat 8 exponent) (BitVec.ofNat 23 mantissa)) st := by
  rw [classifyHost, if_neg (by decide), if_neg (by omega), if_pos rfl]

theorem classifyHost_5_of_fits (he : exponent ≤ 255) (hm : mantissa ≤ 0x7FFFFF) :
    classifyHost exponent mantissa 5 st =
      raiseFaultResponse (issue (.classify16 (BitVec.ofNat 8 exponent) (BitVec.ofNat 23 mantissa)) st) := by
  rw [classifyHost, if_neg (by decide), if_neg (by omega), if_neg (by decide)]

/-- A width the hardware does not have is refused whatever the operands (log 16). -/
theorem classifyHost_unsupported {expWidth : Nat} (h8 : expWidth ≠ 8) (h5 : expWidth ≠ 5) :
    classifyHost exponent mantissa expWidth st = .refused .unsupportedExpWidth := if_pos ⟨h8, h5⟩

theorem classifyHost_of_not_fits {expWidth : Nat} (hwidth : expWidth = 8 ∨ expWidth = 5)
    (hout : exponent > 255 ∨ mantissa > 0x7FFFFF) :
    classifyHost exponent mantissa expWidth st = .fault .invalidFieldRange := by
  rw [classifyHost, if_neg (by omega), if_pos hout]

/-- Width 5 on operands in the format's range: the block answers their label. -/
theorem classifyHost_5_of_inRange (he : exponent ≤ 31) (hm : mantissa ≤ 0x3FF) : ∃ c,
    labelCondition 31 exponent mantissa c ∧ ∃ t, classifyHost exponent mantissa 5 st = .next t ∧ t.out = .classify c := by
  have hexp : (BitVec.ofNat 8 exponent).toNat = exponent := ofNat_toNat_of_le (by omega)
  have hmant : (BitVec.ofNat 23 mantissa).toNat = mantissa := ofNat_toNat_of_le (by omega)
  have hlabel := labelCondition_classify16 (hexp.trans_le he) (hmant.trans_le hm)
  rw [hexp, hmant] at hlabel
  have hcall := classifyHost_5_of_fits (exponent := exponent) (mantissa := mantissa) st (by omega) (by omega)
  rw [issue_eq, responseOf, hexp, hmant, if_pos ⟨he, hm⟩] at hcall
  exact ⟨_, hlabel, _, hcall, rfl⟩

/-- Width 5 outside the format's range: the host's check of the ports or the block's own fault. -/
theorem classifyHost_5_of_outOfRange (hout : exponent > 31 ∨ mantissa > 0x3FF) :
    classifyHost exponent mantissa 5 st = .fault .invalidFieldRange := by
  by_cases hfits : exponent ≤ 255 ∧ mantissa ≤ 0x7FFFFF
  · obtain ⟨he, hm⟩ := hfits
    have hexp : (BitVec.ofNat 8 exponent).toNat = exponent := ofNat_toNat_of_le he
    have hmant : (BitVec.ofNat 23 mantissa).toNat = mantissa := ofNat_toNat_of_le hm
    rw [classifyHost_5_of_fits st he hm, issue_eq, responseOf, hexp, hmant, if_neg (by omega)]
    rfl
  · exact classifyHost_of_not_fits st (.inr rfl) (by omega)

end Calls

/-! ### A call and its requests -/

/-- The operation of a call's last request (30_encoding.md R40, R41). -/
def lastInstr : Call → Instr
  | .encode32 v => .enc32 (BitVec.ofNat 32 v)
  | .decode32 sign exponent mantissa =>
    .dec32 (BitVec.ofNat 1 sign) (BitVec.ofNat 8 exponent) (BitVec.ofNat 23 mantissa)
  | .encode16 v => .enc16 (BitVec.ofNat 32 v)
  | .classify exponent mantissa expWidth =>
    if expWidth = 8 then .classify32 (BitVec.ofNat 8 exponent) (BitVec.ofNat 23 mantissa)
    else .classify16 (BitVec.ofNat 8 exponent) (BitVec.ofNat 23 mantissa)
  | .enc16F sign exponent mantissa =>
    .enc16 (pack32 (BitVec.ofNat 1 sign) (BitVec.ofNat 8 exponent) (BitVec.ofNat 23 mantissa))

/-- A call's requests end in the response of its last operation. -/
theorem programOf_run_getLast? (c : Call) (st : State) :
    ∃ rs, (programOf c).run [] st = some rs ∧ rs.getLast? = some (responseOf (lastInstr c)) := by
  cases c with
  | encode32 v =>
    rw [programOf, Program.run_cons, response_ofInstr]
    exact ⟨_, rfl, rfl⟩
  | decode32 sign exponent mantissa =>
    rw [programOf, Program.run_cons, response_ofInstr]
    exact ⟨_, rfl, rfl⟩
  | encode16 v =>
    rw [programOf, Program.run_cons, response_ofInstr]
    exact ⟨_, rfl, rfl⟩
  | classify exponent mantissa expWidth =>
    rw [programOf, lastInstr]
    split_ifs <;>
    · rw [Program.run_cons, response_ofInstr]
      exact ⟨_, rfl, rfl⟩
  | enc16F sign exponent mantissa =>
    rw [programOf, Program.run_cons, Program.run_cons, response_ofInstr, response_ofInstr]
    exact ⟨_, rfl, rfl⟩

/-- On operands that fit and a supported width, a call answers what the host reads in the response of its last request. -/
theorem callHost_of_fits {c : Call} (hfits : c.fitsPorts = true) (hwidth : c.widthSupported = true) (st : State) :
    ∃ s, callHost c st = raiseFaultResponse (issue (lastInstr c) s) := by
  cases c with
  | encode32 v =>
    refine ⟨st, ?_⟩
    rw [callHost, encode32Host_of_fits st (of_decide_eq_true hfits), lastInstr, issue_eq]
    rfl
  | encode16 v =>
    refine ⟨st, ?_⟩
    rw [callHost, encode16Host_of_fits st (of_decide_eq_true hfits), lastInstr, issue_eq]
    rfl
  | decode32 sign exponent mantissa =>
    obtain ⟨hs, he, hm⟩ := (fitsPorts_decode32_iff ..).1 hfits
    refine ⟨st, ?_⟩
    rw [callHost, decode32Host_of_fits st hs he hm, lastInstr, issue_eq]
    rfl
  | enc16F sign exponent mantissa =>
    obtain ⟨hs, he, hm⟩ := (fitsPorts_enc16F_iff ..).1 hfits
    obtain ⟨s, hcall⟩ := enc16FHost_of_fits st hs he hm
    refine ⟨s, ?_⟩
    rw [callHost, hcall, lastInstr, issue_eq]
    rfl
  | classify exponent mantissa expWidth =>
    obtain ⟨he, hm⟩ := (fitsPorts_classify_iff ..).1 hfits
    refine ⟨st, ?_⟩
    obtain rfl | rfl := (widthSupported_classify_iff ..).1 hwidth
    · rw [callHost, classifyHost_8_of_fits st he hm, lastInstr, if_pos rfl, issue_eq]
      rfl
    · rw [callHost, classifyHost_5_of_fits st he hm, lastInstr, if_neg (by decide)]

/-- The two ends of such a call. -/
theorem callHost_of_isResult {c : Call} (hfits : c.fitsPorts = true) (hwidth : c.widthSupported = true) (st : State)
    (hresult : (responseOf (lastInstr c)).isResult = true) :
    ∃ t, callHost c st = .next t ∧ t.out = responseOf (lastInstr c) := by
  obtain ⟨s, hcall⟩ := callHost_of_fits hfits hwidth st
  rw [issue_eq, raiseFaultResponse_next, if_pos hresult] at hcall
  exact ⟨_, hcall, rfl⟩

theorem callHost_of_not_isResult {c : Call} (hfits : c.fitsPorts = true) (hwidth : c.widthSupported = true)
    (st : State) (hresult : ¬ (responseOf (lastInstr c)).isResult = true) :
    callHost c st = .fault .invalidFieldRange := by
  obtain ⟨s, hcall⟩ := callHost_of_fits hfits hwidth st
  rw [hcall, issue_eq, raiseFaultResponse_next, if_neg hresult]

/-- Off the ports or the widths a call ends before a response is read. -/
theorem callHost_ne_next_of_not_fits {c : Call} (st : State)
    (hbad : ¬ (c.fitsPorts = true ∧ c.widthSupported = true)) (t : State) : callHost c st ≠ .next t := by
  cases c with
  | encode32 v =>
    have hout : v > 0xFFFFFFFF := by simpa [Call.fitsPorts, Call.widthSupported] using hbad
    simp [callHost, encode32Host, hout]
  | encode16 v =>
    have hout : v > 0xFFFFFFFF := by simpa [Call.fitsPorts, Call.widthSupported] using hbad
    simp [callHost, encode16Host, hout]
  | decode32 sign exponent mantissa =>
    have hout : ¬ (sign ≤ 1 ∧ exponent ≤ 255 ∧ mantissa ≤ 0x7FFFFF) := fun hfits =>
      hbad ⟨(fitsPorts_decode32_iff ..).2 hfits, rfl⟩
    rw [callHost, decode32Host_of_not_fits st (by omega)]
    exact fun h => nomatch h
  | enc16F sign exponent mantissa =>
    have hout : ¬ (sign ≤ 1 ∧ exponent ≤ 255 ∧ mantissa ≤ 0x7FFFFF) := fun hfits =>
      hbad ⟨(fitsPorts_enc16F_iff ..).2 hfits, rfl⟩
    rw [callHost, enc16FHost, decode32Host_of_not_fits st (by omega)]
    exact fun h => nomatch h
  | classify exponent mantissa expWidth =>
    rw [fitsPorts_classify_iff, widthSupported_classify_iff] at hbad
    by_cases hwidth : expWidth = 8 ∨ expWidth = 5
    · rw [callHost, classifyHost_of_not_fits st hwidth (by omega)]
      exact fun h => nomatch h
    · rw [callHost, classifyHost_unsupported st (by omega) (by omega)]
      exact fun h => nomatch h

/-- A call is well formed when it fits, its width is supported, and its last operation is in its declared domain. -/
theorem call_wellFormed_iff (c : Call) :
    c.wellFormed = true ↔ (c.fitsPorts = true ∧ c.widthSupported = true) ∧ (lastInstr c).wellFormed = true := by
  cases c with
  | encode32 v => simp [Call.wellFormed, Call.widthSupported, Call.inDomain, lastInstr, Instr.wellFormed]
  | encode16 v => simp [Call.wellFormed, Call.widthSupported, Call.inDomain, lastInstr, Instr.wellFormed]
  | decode32 sign exponent mantissa =>
    simp [Call.wellFormed, Call.widthSupported, Call.inDomain, lastInstr, Instr.wellFormed]
  | enc16F sign exponent mantissa =>
    simp [Call.wellFormed, Call.widthSupported, Call.inDomain, lastInstr, Instr.wellFormed]
  | classify exponent mantissa expWidth =>
    by_cases h5 : expWidth = 5
    · subst h5
      have hdomain : (Call.classify exponent mantissa 5).wellFormed = true ↔ exponent ≤ 31 ∧ mantissa ≤ 0x3FF := by
        simp [Call.wellFormed, Call.widthSupported, Call.inDomain]
      rw [hdomain, lastInstr, if_neg (by decide), wellFormed_classify16_iff, BitVec.toNat_ofNat, BitVec.toNat_ofNat,
        fitsPorts_classify_iff, and_iff_left (show (Call.classify exponent mantissa 5).widthSupported = true from rfl)]
      omega
    · by_cases h8 : expWidth = 8
      · subst h8
        simp [Call.wellFormed, Call.widthSupported, Call.inDomain, lastInstr, Instr.wellFormed]
      · simp [Call.wellFormed, Call.widthSupported, h5, h8]

/-! ### The statements -/

/-- Settles O49: a response is a result exactly when the operation's operands are in its domain. -/
theorem programSafeExactlyInDomain : Obligations.ProgramSafeExactlyInDomain := by
  unfold Obligations.ProgramSafeExactlyInDomain
  intro qs st
  rw [safeRun_ofRequests_iff]
  exact forall₂_congr fun q _ => by rw [Request.response, responseOf_isResult]

/-- Settles O50: in range, the naturals are the numbers of the port values, so DEC32's ports are as the table says. -/
theorem decodeHostFailsFast : Obligations.DecodeHostFailsFast := by
  unfold Obligations.DecodeHostFailsFast
  constructor
  · intro sign exponent mantissa st hout
    exact decode32Host_of_not_fits st hout
  · intro sign exponent mantissa st hs he hm
    refine ⟨_, (decode32Host_of_fits st hs he hm).trans (issue_eq _ st), rfl, rfl, ?_, ?_, rfl, rfl, rfl, rfl, rfl⟩
    · rw [responseOf, decode32_raw, pack32_toNat, ofNat_toNat_of_le hs, ofNat_toNat_of_le he, ofNat_toNat_of_le hm]
    · rw [responseOf, decode32_sym, symbolicOf_code]
      have hexp : BitVec.ofNat 8 exponent = 255#8 ↔ exponent = 255 := ofNat_eq_ofNat_iff he (by decide)
      have hmant : BitVec.ofNat 23 mantissa = 0#23 ↔ mantissa = 0 := ofNat_eq_ofNat_iff hm (by decide)
      have hsign : BitVec.ofNat 1 sign = 0#1 ↔ sign = 0 := ofNat_eq_ofNat_iff hs (by decide)
      simp only [ne_eq, hexp, hmant, hsign]

/-- Settles O51: the width first, then the ports, then the format's own range. -/
theorem classifyHostDomain : Obligations.ClassifyHostDomain := by
  unfold Obligations.ClassifyHostDomain
  intro exponent mantissa expWidth st
  refine ⟨classifyHost_unsupported st, ?_, ?_, ?_, ?_⟩
  · intro hwidth hout
    exact classifyHost_of_not_fits st (.inl hwidth) hout
  · rintro rfl he hm
    have hlabel := labelCondition_classify (BitVec.ofNat 8 exponent) (BitVec.ofNat 23 mantissa)
    rw [ofNat_toNat_of_le he, ofNat_toNat_of_le hm] at hlabel
    exact ⟨_, hlabel, _, (classifyHost_8_of_fits st he hm).trans (issue_eq _ st), rfl⟩
  · rintro rfl hout
    exact classifyHost_5_of_outOfRange st hout
  · rintro rfl he hm
    exact classifyHost_5_of_inRange st he hm

/-- Settles O52: the second request of ENC16F narrows the first one's packed word. -/
theorem enc16FNarrowsTheGivenTriple : Obligations.Enc16FNarrowsTheGivenTriple := by
  unfold Obligations.Enc16FNarrowsTheGivenTriple
  intro s e m st
  obtain ⟨t, hcall⟩ := enc16FHost_of_fits st (Nat.le_of_lt_succ s.isLt) (Nat.le_of_lt_succ e.isLt)
    (Nat.le_of_lt_succ m.isLt)
  rw [issue_eq, BitVec.ofNat_toNat, BitVec.ofNat_toNat, BitVec.ofNat_toNat, BitVec.setWidth_eq, BitVec.setWidth_eq,
    BitVec.setWidth_eq] at hcall
  exact ⟨_, _, hcall, exec_enc16 st _, rfl⟩

/-- Settles O53: both end in the response of the call's last operation, which the host reads as a result or the fault. -/
theorem callAgreesWithItsRequests : Obligations.CallAgreesWithItsRequests := by
  unfold Obligations.CallAgreesWithItsRequests
  intro c st hfits hwidth
  obtain ⟨rs, hrun, hlast⟩ := programOf_run_getLast? c st
  refine ⟨rs, _, hrun, hlast, ?_⟩
  by_cases hresult : (responseOf (lastInstr c)).isResult = true
  · obtain ⟨t, hcall, hout⟩ := callHost_of_isResult hfits hwidth st hresult
    exact .inl ⟨t, hcall, hout, hresult⟩
  · exact .inr ⟨callHost_of_not_isResult hfits hwidth st hresult,
      not_not.1 (mt (response_isResult_iff _).2 hresult)⟩

/-- Settles O54: off the ports or the widths no call answers; on them it answers exactly when its last response is a
result, which is when its operation is in its domain. -/
theorem callAnswersExactlyWhenWellFormed : Obligations.CallAnswersExactlyWhenWellFormed := by
  unfold Obligations.CallAnswersExactlyWhenWellFormed
  intro c st
  rw [call_wellFormed_iff, ← responseOf_isResult]
  constructor
  · rintro ⟨t, hcall⟩
    by_cases hgood : c.fitsPorts = true ∧ c.widthSupported = true
    · refine ⟨hgood, by_contra fun hresult => ?_⟩
      rw [callHost_of_not_isResult hgood.1 hgood.2 st hresult] at hcall
      cases hcall
    · exact absurd hcall (callHost_ne_next_of_not_fits st hgood t)
  · rintro ⟨⟨hfits, hwidth⟩, hresult⟩
    obtain ⟨t, hcall, -⟩ := callHost_of_isResult hfits hwidth st hresult
    exact ⟨t, hcall⟩

end Sys2Proof.Machine
end

section
/-! PROOFS. The assembler line (30_encoding.md R40, R41) and the host's renderings of `raw` and `sym` (R37;
40_field_codec_32bit.md R47, R48). -/

namespace Sys2Proof.Machine

/-! ### The assembler -/

/-- A line is assembled only past the two checks of the call (30_encoding.md R40, R41). -/
theorem fits_of_assembleLine {line : List Char} {c : Call} (h : assembleLine line = .ok c) :
    c.fitsPorts = true ∧ c.widthSupported = true := by
  simp only [assembleLine] at h
  split at h
  · cases h
  · split at h
    · cases h
    · split at h
      · cases h
      · split_ifs at h with hwidth hfits
        cases h
        exact ⟨hfits, hwidth⟩

/-- The operation of a call's first request: ENC16F starts with DEC32, every other call has one request. -/
def firstInstr : Call → Instr
  | .enc16F sign exponent mantissa =>
    .dec32 (BitVec.ofNat 1 sign) (BitVec.ofNat 8 exponent) (BitVec.ofNat 23 mantissa)
  | .encode32 v => lastInstr (.encode32 v)
  | .decode32 sign exponent mantissa => lastInstr (.decode32 sign exponent mantissa)
  | .encode16 v => lastInstr (.encode16 v)
  | .classify exponent mantissa expWidth => lastInstr (.classify exponent mantissa expWidth)

theorem programOf_head?_word (c : Call) :
    (programOf c).head?.map (fun q => (q []).word) = some (encode (firstInstr c)) := by
  cases c with
  | encode32 v => exact congrArg some (word_ofInstr _)
  | decode32 sign exponent mantissa => exact congrArg some (word_ofInstr _)
  | encode16 v => exact congrArg some (word_ofInstr _)
  | enc16F sign exponent mantissa => exact congrArg some (word_ofInstr _)
  | classify exponent mantissa expWidth =>
    rw [programOf, firstInstr, lastInstr]
    split_ifs <;> exact congrArg some (word_ofInstr _)

theorem firstWord_of_assembleLine {line : List Char} {c : Call} (h : assembleLine line = .ok c) :
    firstWord line = some (encode (firstInstr c)) := by
  rw [firstWord, h, ← programOf_head?_word]

theorem exists_encode_of_firstWord {line : List Char} {w : ReqWord} (h : firstWord line = some w) :
    ∃ i : Instr, w = encode i := by
  cases hline : assembleLine line with
  | error err =>
    rw [firstWord, hline] at h
    cases h
  | ok c =>
    rw [firstWord_of_assembleLine hline, Option.some.injEq] at h
    exact ⟨firstInstr c, h.symm⟩

/-- Every request of a call is that of an operation, whatever the responses before it. -/
theorem exists_ofInstr_of_mem_programOf {c : Call} {q : List Response → Request} (hq : q ∈ programOf c)
    (past : List Response) : ∃ i : Instr, q past = Request.ofInstr i := by
  cases c with
  | encode32 v =>
    rw [List.mem_singleton.1 hq]
    exact ⟨_, rfl⟩
  | decode32 sign exponent mantissa =>
    rw [List.mem_singleton.1 hq]
    exact ⟨_, rfl⟩
  | encode16 v =>
    rw [List.mem_singleton.1 hq]
    exact ⟨_, rfl⟩
  | classify exponent mantissa expWidth =>
    rw [programOf] at hq
    split_ifs at hq <;>
    · rw [List.mem_singleton.1 hq]
      exact ⟨_, rfl⟩
  | enc16F sign exponent mantissa =>
    obtain rfl | rfl := List.mem_pair.1 hq
    · exact ⟨_, rfl⟩
    · exact ⟨_, rfl⟩

/-! ### Digits -/

/-- Reading digits one more at the end: the value so far moves up by one place. -/
theorem digitsFrom_append_digit {base acc value : Nat} {cs : List Char} (h : digitsFrom base acc cs = some value)
    {c : Char} {d : Nat} (hdigit : digitValue c = some d) (hd : d < base) :
    digitsFrom base acc (cs ++ [c]) = some (value * base + d) := by
  induction cs generalizing acc with
  | nil =>
    rw [digitsFrom, Option.some.injEq] at h
    rw [List.nil_append, digitsFrom, hdigit, h]
    exact if_pos hd
  | cons b cs ih =>
    rw [List.cons_append, digitsFrom]
    cases hb : digitValue b with
    | none =>
      rw [digitsFrom, hb] at h
      cases h
    | some value' =>
      simp only [digitsFrom, hb] at h
      split_ifs at h with hlt
      exact (if_pos hlt).trans (ih h)

/-- The digits of a number, the most significant of `n` first, read back as the number. -/
theorem digitsFrom_map_range {base : Nat} (hbase : 0 < base) {n x : Nat} (hx : x < base ^ n) {digit : Nat → Char}
    (hdigit : ∀ i < n, digitValue (digit i) = some (x / base ^ (n - 1 - i) % base)) :
    digitsFrom base 0 ((List.range n).map digit) = some x := by
  have first_digits : ∀ k ≤ n, digitsFrom base 0 ((List.range k).map digit) = some (x / base ^ (n - k)) := by
    intro k
    induction k with
    | zero =>
      intro _
      rw [Nat.sub_zero, Nat.div_eq_of_lt hx]
      rfl
    | succ k ih =>
      intro hk
      have hplace : base ^ (n - k) = base ^ (n - (k + 1)) * base := by
        rw [← Nat.pow_succ]
        congr 1
        omega
      have hlast := hdigit k hk
      rw [show n - 1 - k = n - (k + 1) by omega] at hlast
      rw [List.range_succ, List.map_append, List.map_singleton,
        digitsFrom_append_digit (ih (by omega)) hlast (Nat.mod_lt _ hbase), hplace, ← Nat.div_div_eq_div_mul,
        Nat.div_add_mod']
  simpa using first_digits n le_rfl

/-! ### The two renderings -/

theorem bin32_length (raw : Word32) : (bin32 raw).length = 32 := by
  rw [bin32, List.length_map, List.length_range]

theorem digitValue_bit (b : Bool) : digitValue (if b then '1' else '0') = some b.toNat := by
  cases b <;> decide

theorem digitsFrom_bin32 (raw : Word32) : digitsFrom 2 0 (bin32 raw) = some raw.toNat := by
  refine digitsFrom_map_range (by decide) raw.isLt fun i _ => ?_
  rw [digitValue_bit, BitVec.getLsbD, Nat.toNat_testBit]

theorem hex8_length (upper : Bool) (raw : Word32) : (hex8 upper raw).length = 8 := by
  rw [hex8, List.length_map, List.length_range]

/-- Both letter cases of a digit read as its value (40_field_codec_32bit.md R48). -/
theorem digitValue_hexDigit (upper : Bool) (d : BitVec 4) : digitValue (hexDigit upper d) = some d.toNat := by
  revert upper d
  decide

theorem digitsFrom_hex8 (upper : Bool) (raw : Word32) : digitsFrom 16 0 (hex8 upper raw) = some raw.toNat := by
  refine digitsFrom_map_range (by decide) (n := 8) raw.isLt fun i hi => ?_
  have hplace : 2 ^ (28 - 4 * i) = 16 ^ (8 - 1 - i) := by
    rw [show 28 - 4 * i = 4 * (8 - 1 - i) by omega, Nat.pow_mul]
  rw [digitValue_hexDigit, BitVec.extractLsb'_toNat, Nat.shiftRight_eq_div_pow, hplace]

/-! ### The symbolic string -/

theorem textOfSym_code (s : Symbolic) : textOfSym s.code = s.text := by
  cases s <;> rfl

/-! ### The statements -/

/-- Settles O56: what the two checks let through, the first word of each call, and the requests of a call by cases. -/
theorem assembledLinesFitThePorts : Obligations.AssembledLinesFitThePorts := by
  unfold Obligations.AssembledLinesFitThePorts
  refine ⟨?_, fun line w => exists_encode_of_firstWord, fun c q => exists_ofInstr_of_mem_programOf, ?_⟩
  · intro line c hline
    have hword := firstWord_of_assembleLine hline
    obtain ⟨hfits, hwidth⟩ := fits_of_assembleLine hline
    refine ⟨hfits, hwidth, ?_⟩
    cases c with
    | encode32 v => exact ⟨_, ofNat_toNat_of_le (of_decide_eq_true hfits), hword⟩
    | encode16 v => exact ⟨_, ofNat_toNat_of_le (of_decide_eq_true hfits), hword⟩
    | decode32 sign exponent mantissa =>
      obtain ⟨hs, he, hm⟩ := (fitsPorts_decode32_iff ..).1 hfits
      exact ⟨_, _, _, ofNat_toNat_of_le hs, ofNat_toNat_of_le he, ofNat_toNat_of_le hm, hword⟩
    | enc16F sign exponent mantissa =>
      obtain ⟨hs, he, hm⟩ := (fitsPorts_enc16F_iff ..).1 hfits
      exact ⟨_, _, _, ofNat_toNat_of_le hs, ofNat_toNat_of_le he, ofNat_toNat_of_le hm, hword⟩
    | classify exponent mantissa expWidth =>
      obtain ⟨he, hm⟩ := (fitsPorts_classify_iff ..).1 hfits
      refine ⟨_, _, ofNat_toNat_of_le he, ofNat_toNat_of_le hm, ?_⟩
      obtain rfl | rfl := (widthSupported_classify_iff ..).1 hwidth
      · exact .inl ⟨rfl, hword⟩
      · exact .inr ⟨rfl, hword⟩
  · intro i
    cases i with
    | enc32 v => exact ofWord_word { op := 0b00#2, fmt := 0#1, s := 0#1, e := 0#8, m := 0#23, v := v }
    | dec32 s e m => exact ofWord_word { op := 0b01#2, fmt := 0#1, s := s, e := e, m := m, v := 0#32 }
    | enc16 v => exact ofWord_word { op := 0b10#2, fmt := 0#1, s := 0#1, e := 0#8, m := 0#23, v := v }
    | classify32 e m => exact ofWord_word { op := 0b11#2, fmt := 0#1, s := 0#1, e := e, m := m, v := 0#32 }
    | classify16 e m => exact ofWord_word { op := 0b11#2, fmt := 1#1, s := 0#1, e := e, m := m, v := 0#32 }

/-- Settles O57: a bit's character is its digit in base 2. -/
theorem binaryRenderingReadsBack : Obligations.BinaryRenderingReadsBack := by
  unfold Obligations.BinaryRenderingReadsBack
  intro raw
  refine ⟨bin32_length raw, fun i hi => ?_, digitsFrom_bin32 raw⟩
  rw [bin32, List.getElem?_map, List.getElem?_range hi, Option.map_some]

/-- Settles O58: a hexadecimal character is its digit in base 16 in either letter case. -/
theorem hexRenderingReadsBack : Obligations.HexRenderingReadsBack := by
  unfold Obligations.HexRenderingReadsBack
  intro raw
  exact ⟨fun upper => ⟨hex8_length upper raw, digitsFrom_hex8 upper raw⟩, hex8_length _ raw, digitsFrom_hex8 _ raw⟩

/-- Settles O55: four closed lines. -/
theorem assemblerExampleLines : Obligations.AssemblerExampleLines := by
  unfold Obligations.AssemblerExampleLines
  decide

/-- Settles O59: the string of the code is that of the symbolic result, chosen by the triple. -/
theorem symbolicStringOfDec32 : Obligations.SymbolicStringOfDec32 := by
  unfold Obligations.SymbolicStringOfDec32
  intro s e m st
  refine ⟨_, exec_dec32 st s e m, ?_⟩
  rw [decode32_sym, textOfSym_code]
  refine ⟨?_, ?_, ?_, ?_⟩
  · intro he
    rw [symbolicOf_of_ne_max s m he]
    rfl
  · rintro rfl rfl rfl
    rfl
  · rintro rfl rfl rfl
    rfl
  · rintro rfl hm
    rw [symbolicOf_max, if_pos hm]
    rfl

end Sys2Proof.Machine
end
